-- ==== Sys2Proof/Word.lean ====
section
/-! DEFINITION. The bit types of the engine (00_scope.md R7, R8, R13): a byte, a 32-bit word, a 64-bit
field, and a byte sequence.  Every value that the spec shifts, masks or lets wrap is one of these;
lengths, indices and counts of list elements are natural numbers. -/

namespace Sys2Proof

/-- R9: 8 bits, valued 0..255. -/
abbrev Byte := BitVec 8

/-- R13: a natural number below 2^32; bit 31 is the most significant (R8). -/
abbrev Word := BitVec 32

/-- R7: a 64-bit field (PLEN, RLEN, CNT); bit 63 is the most significant (R8). -/
abbrev DWord := BitVec 64

/-- R9: a byte sequence, indexed from 0. -/
abbrev Bytes := List Byte

end Sys2Proof
end

