-- ==== Sys2Proof/Config.lean ====
section
/-! DEFINITION. What an implementation of the engine fixes (00_scope.md R7) and the free values the spec
leaves open (10_state.md R114, 93_implementation_defined.md I2). -/

namespace Sys2Proof

/-- R7, D9: the largest message length accepted, 2^61 − 1 bytes. -/
def Config.maxLen : Nat := 2 ^ 61 - 1

/-- R7: the open parameter NCTX is at least 2. -/
def Config.nctxMin : Nat := 2

/-- R7: the open parameter NCTX is at most 16 (the 4-bit index fields, D4). -/
def Config.nctxMax : Nat := 16

/-- The number of contexts of the machine that `State.reset` describes.  DESIGN CHOICE (log 1), unsafe: NCTX is
open in the spec; 4 is the value its examples use (R7, D7).  No meaning reads this constant: NCTX is the
length of the context file that the state holds, so every statement about all states is for every NCTX. -/
def Config.nctx : Nat := 4

/-- FREE VALUE (log 3), safe: word `j` of `ctx[c].H` after the reset number `draw` (R114 "unspecified").  No body. -/
opaque Config.resetWord (draw c j : Nat) : Word

/-- FREE VALUE (log 3), safe: byte `i` of `ctx[c].BUF` after the reset number `draw` (R114).  No body. -/
opaque Config.resetByte (draw c i : Nat) : Byte

/-- FREE VALUE (log 3), safe: `ctx[c].CNT` after the reset number `draw` (R114).  No body. -/
opaque Config.resetCount (draw c : Nat) : DWord

end Sys2Proof
end

