-- ==== Sys2Proof/Machine/State.lean ====
section
/-! DEFINITION. The state of the engine (10_state.md R100–R114), the queues of its host interface
(30_encoding.md R300, R301; 60_exceptions.md R630), the state right after reset (R114, R700), and the causes of a
refused command (60_exceptions.md R602–R607).  The engine has no registers, program counter, flags, control
registers or addressable memory (R108, R109, R111, R112, R200), so State holds none.  The constant tables IV and K
are read-only ROM (R110, R461, D26) and stand in Machine/Constants.lean. -/

namespace Sys2Proof.Machine

/-- R13: the 8-word chaining value ("State" in the spec), its words 0..7 named a..h. -/
structure Chain where
  a : Word
  b : Word
  c : Word
  d : Word
  e : Word
  f : Word
  g : Word
  h : Word
deriving DecidableEq, Repr

/-- R101: one hash context. -/
structure Context where
  /-- R102: 1 once the context has been created -/
  valid : Bool
  /-- R103: the running State -/
  h : Chain
  /-- R104: the partial-block accumulator, 64 bytes -/
  buf : Vector Byte 64
  /-- R105: total bytes absorbed so far, 64 bits -/
  cnt : DWord
deriving DecidableEq, Repr

/-- R301: one response frame: its STATUS word (R601) and its data; RLEN is the data's length. -/
structure Response where
  status : Word
  data : Bytes
deriving DecidableEq, Repr

/-- The whole state of the engine and of its transaction-level interface. -/
structure State where
  /-- R101: the context file `ctx[0..NCTX−1]`; its length is the parameter NCTX (R7, log 1) -/
  ctxs : List Context
  /-- R300, R630: the bytes that have arrived and are not yet taken, oldest first: queued frames, then a frame
  partly received -/
  rx : Bytes
  /-- R301, R630: the response frames returned and not yet read by the host, oldest first -/
  tx : List Response
  /-- R700: reset is asserted and not yet taken -/
  resetPin : Bool
  /-- the MODEL's own counter of the resets taken, from which a reset draws its free values (log 3) -/
  resets : Nat
deriving DecidableEq, Repr

/-- Why the engine stops.  It never does: a refused command is a response, and the next command is taken
normally (R600, R608, R610), so the type has no constructor (log 9). -/
inductive Fault where
deriving DecidableEq, Repr

/-- Why a step has no meaning.  Only `notModelled`, for an instruction without a meaning; no arm raises it. -/
inductive Refusal where
  /-- raised by no arm: every command has its meaning; safe -/
  | notModelled (mnemonic : String)
deriving DecidableEq, Repr

/-- The outcome of a step of this machine. -/
abbrev Outcome := Host.Outcome State Fault Refusal

/-- The value a context holds at reset.  `valid` is R114's 0.  H, BUF and CNT are unspecified there: the zeros are a
DESIGN CHOICE (log 2), unsafe. -/
def Context.blank : Context where
  valid := false
  h := ⟨0, 0, 0, 0, 0, 0, 0, 0⟩
  buf := Vector.replicate 64 0
  cnt := 0

/-- R114, R700: right after reset, for an engine built with `nctx` contexts (R7): every context invalid, no frame
queued, no command in progress, waiting for the first command frame. -/
def State.resetOf (nctx : Nat) : State where
  ctxs := List.replicate nctx Context.blank
  rx := []
  tx := []
  resetPin := false
  resets := 0

/-- R114, R700: the machine right after reset, with the NCTX of Config (log 1). -/
def State.reset : State := State.resetOf Config.nctx

/-- R602: the status codes. -/
inductive Status where
  /-- executed; the response data follows -/
  | ok
  /-- an operand has the wrong length or value -/
  | invalidInput
  /-- the command word spells no command -/
  | illegalCommand
  /-- a context index is ≥ NCTX -/
  | badContext
  /-- a context that must be valid is not -/
  | contextInvalid
  /-- a message length would exceed MAXLEN -/
  | lengthRange
deriving DecidableEq, Repr

/-- R603–R607: each cause of a refused command, by name; `Cause.status` and `Cause.detail` (Machine/Flags.lean) give
its codes. -/
inductive Cause where
  /-- R603 detail 0x01 -/
  | unassignedOpcode
  /-- R603 detail 0x02 -/
  | reservedNonzero
  /-- R603 detail 0x03 -/
  | unusedNonzero
  /-- R604 detail 0x01: CA ≥ NCTX -/
  | badTarget
  /-- R604 detail 0x02: CB ≥ NCTX -/
  | badSource
  /-- R605 detail 0x01: ctx[CA] is not valid -/
  | targetInvalid
  /-- R605 detail 0x02: ctx[CB] is not valid -/
  | sourceInvalid
  /-- R606 detail 0x01: a Block operand is not exactly 64 bytes -/
  | blockLength
  /-- R606 detail 0x02: a digest operand is not exactly 32 bytes -/
  | digestLength
  /-- R606 detail 0x03: rotation amount outside (0,32) -/
  | rotationAmount
  /-- R606 detail 0x04: any other wrong payload shape -/
  | payloadShape
  /-- R606 detail 0x05: FORGE's L exceeds the bytes that follow it -/
  | forgeLength
  /-- R607 detail 0x01: PLEN or a length operand exceeds MAXLEN -/
  | lengthOver
  /-- R607 detail 0x02: CNT + PLEN exceeds MAXLEN -/
  | countOver
  /-- R607 detail 0x03: the extended length exceeds MAXLEN -/
  | extendedOver
deriving DecidableEq, Repr

end Sys2Proof.Machine
end

