-- ==== Sys2Proof/Machine/Bytes.lean ====
section
/-! DEFINITION. Byte order (00_scope.md R9, R10; 20_memory.md R202, R203): every multi-byte value of the
engine is big-endian, and this is the one place that says so. -/

namespace Sys2Proof.Machine

/-- R9: `zeros(n)`, n bytes of value 0x00. -/
def zeros (n : Nat) : Bytes := List.replicate n 0

/-- R9: `B[i..j)`, the bytes i to j−1; empty when j ≤ i. -/
def slice (B : Bytes) (i j : Nat) : Bytes := (B.drop i).take (j - i)

/-- R202: the value of a byte sequence, its first byte the most significant. -/
def beNat (B : Bytes) : Nat := B.foldl (fun n b => n * 256 + b.toNat) 0

/-- R202: the `k`-byte big-endian encoding of `n` (modulo 256^k), most significant byte first. -/
def beBytes : Nat → Nat → Bytes
  | 0, _ => []
  | k + 1, n => beBytes k (n / 256) ++ [BitVec.ofNat 8 n]

/-- R10: the big-endian 32-bit read of `B[i..i+4)`. -/
def be32 (B : Bytes) (i : Nat) : Word := BitVec.ofNat 32 (beNat (slice B i (i + 4)))

/-- R10: the big-endian 64-bit read of `B[i..i+8)`, as a natural number (R13 `Len`). -/
def be64 (B : Bytes) (i : Nat) : Nat := beNat (slice B i (i + 8))

/-- R10: the 4-byte big-endian encoding of a word. -/
def u32be (x : Word) : Bytes := beBytes 4 x.toNat

/-- R10: the 8-byte big-endian encoding of a 64-bit value. -/
def u64be (n : Nat) : Bytes := beBytes 8 n

end Sys2Proof.Machine
end

