-- ==== Sys2Proof/Syntax.lean ====
section
/-! DEFINITION. The commands of the engine: one constructor per row of the opcode map (30_encoding.md R304).
A command carries the context indices its row uses (R303) and its payload `P`, with `PLEN = |P|` (R12, R300):
the payload's shape is checked when the command runs (60_exceptions.md R606), not when it is decoded (R306),
so a command with a payload of the wrong shape is a command. -/

namespace Sys2Proof

/-- R303: an unsigned 4-bit context index. -/
abbrev CtxIdx := BitVec 4

/-- R304: the fifteen commands.  `p` is the payload; `ca` the target (destination) and `cb` the source context. -/
inductive Instr where
  /-- 0x01 ADD32 (R403) -/
  | add32 (p : Bytes)
  /-- 0x02 ROTR32 (R404) -/
  | rotr32 (p : Bytes)
  /-- 0x10 EXPAND (R423) -/
  | expand (p : Bytes)
  /-- 0x11 STEP (R446) -/
  | step (p : Bytes)
  /-- 0x12 COMPRESS (R464) -/
  | compress (p : Bytes)
  /-- 0x13 PAD (R483) -/
  | pad (p : Bytes)
  /-- 0x14 HASH (R508) -/
  | hash (p : Bytes)
  /-- 0x20 CTX_INIT (R500) -/
  | ctxInit (ca : CtxIdx) (p : Bytes)
  /-- 0x21 CTX_ABSORB (R502) -/
  | ctxAbsorb (ca : CtxIdx) (p : Bytes)
  /-- 0x22 CTX_FINAL (R504) -/
  | ctxFinal (ca : CtxIdx) (p : Bytes)
  /-- 0x23 CTX_CLONE, `ca` the destination and `cb` the source (R506) -/
  | ctxClone (ca cb : CtxIdx) (p : Bytes)
  /-- 0x30 S2D (R542) -/
  | s2d (p : Bytes)
  /-- 0x31 D2S (R543) -/
  | d2s (p : Bytes)
  /-- 0x40 EXTEND (R562) -/
  | extend (p : Bytes)
  /-- 0x41 FORGE (R564) -/
  | forge (p : Bytes)
deriving DecidableEq, Repr

/-- R12: the payload byte sequence of a command. -/
def Instr.payload : Instr → Bytes
  | .add32 p => p
  | .rotr32 p => p
  | .expand p => p
  | .step p => p
  | .compress p => p
  | .pad p => p
  | .hash p => p
  | .ctxInit _ p => p
  | .ctxAbsorb _ p => p
  | .ctxFinal _ p => p
  | .ctxClone _ _ p => p
  | .s2d p => p
  | .d2s p => p
  | .extend p => p
  | .forge p => p

end Sys2Proof
end

