-- ==== Sys2Proof/WellFormed.lean ====
section
/-! DEFINITION. Which commands a frame can carry.  The context indices are 4-bit fields by their type (R303), so
the one check left is that the payload's length fits the 64-bit PLEN field (30_encoding.md R300). -/

namespace Sys2Proof

/-- R300: the payload length is an unsigned 64-bit value. -/
def Instr.wellFormed (i : Instr) : Bool := decide (i.payload.length < 2 ^ 64)

end Sys2Proof
end

