-- ==== Sys2Proof/Decode.lean ====
section
/-! DEFINITION. Decoding a command frame (30_encoding.md R300, R302, R306, R307) and, after it, the encoder
(R300, R302, R304).  Decoding is total: every byte sequence is a frame still arriving, a complete frame whose
command word is illegal for a named reason, or a complete frame with its command. -/

namespace Sys2Proof

open Machine (be32 be64 u32be u64be slice)

/-- R306: why a command word spells no command, in the order of the tests. -/
inductive Illegal where
  /-- detail 0x01: the opcode is not in R304 (R305) -/
  | unassignedOpcode
  /-- detail 0x02: bits 31:16 are not zero -/
  | reservedNonzero
  /-- detail 0x03: a CA or CB field that the opcode does not use is not zero (R303) -/
  | unusedNonzero
deriving DecidableEq, Repr

/-- R302: `OPC = CMD[7:0]`. -/
def cmdOpc (cmd : Word) : Byte := cmd.extractLsb' 0 8

/-- R302: `CA = CMD[11:8]`. -/
def cmdCA (cmd : Word) : CtxIdx := cmd.extractLsb' 8 4

/-- R302: `CB = CMD[15:12]`. -/
def cmdCB (cmd : Word) : CtxIdx := cmd.extractLsb' 12 4

/-- R302: `RSV = CMD[31:16]`. -/
def cmdRsv (cmd : Word) : BitVec 16 := cmd.extractLsb' 16 16

/-- R304: the command an opcode stands for, given the frame's fields; `none` for an unassigned opcode (R305). -/
def commandOf (opc : Byte) (ca cb : CtxIdx) (p : Bytes) : Option Instr :=
  match opc with
  | 0x01 => some (.add32 p)
  | 0x02 => some (.rotr32 p)
  | 0x10 => some (.expand p)
  | 0x11 => some (.step p)
  | 0x12 => some (.compress p)
  | 0x13 => some (.pad p)
  | 0x14 => some (.hash p)
  | 0x20 => some (.ctxInit ca p)
  | 0x21 => some (.ctxAbsorb ca p)
  | 0x22 => some (.ctxFinal ca p)
  | 0x23 => some (.ctxClone ca cb p)
  | 0x30 => some (.s2d p)
  | 0x31 => some (.d2s p)
  | 0x40 => some (.extend p)
  | 0x41 => some (.forge p)
  | _ => none

/-- R303, R306: the opcodes 0x20..0x23 use CA. -/
def opcUsesCA (opc : Byte) : Bool := opc == 0x20 || opc == 0x21 || opc == 0x22 || opc == 0x23

/-- R303, R306: only CTX_CLONE uses CB. -/
def opcUsesCB (opc : Byte) : Bool := opc == 0x23

/-- R306: the command word and payload to a command, or the first test that fails. -/
def decodeWord (cmd : Word) (p : Bytes) : Except Illegal Instr :=
  match commandOf (cmdOpc cmd) (cmdCA cmd) (cmdCB cmd) p with
  | none => .error .unassignedOpcode
  | some i =>
    if cmdRsv cmd ≠ 0 then .error .reservedNonzero
    else if opcUsesCA (cmdOpc cmd) = false ∧ cmdCA cmd ≠ 0 then .error .unusedNonzero
    else if opcUsesCB (cmdOpc cmd) = false ∧ cmdCB cmd ≠ 0 then .error .unusedNonzero
    else .ok i

/-- What the bytes that have arrived hold at their front. -/
inductive Fetched where
  /-- R300: fewer than 12 + PLEN bytes have arrived: the engine waits -/
  | waiting
  /-- a complete frame whose command word is illegal (R306), and the bytes after it -/
  | illegal (e : Illegal) (rest : Bytes)
  /-- a complete frame with its command, and the bytes after it -/
  | command (i : Instr) (rest : Bytes)
deriving DecidableEq, Repr

/-- R300, R307: take one frame from the front; its length is found from PLEN alone, and an illegal command's
frame is taken whole, like any other (one response per frame, R301). -/
def decodeFrame (bs : Bytes) : Fetched :=
  if bs.length < 12 then .waiting
  else if bs.length < 12 + be64 bs 4 then .waiting
  else
    match decodeWord (be32 bs 0) (slice bs 12 (12 + be64 bs 4)) with
    | .error e => .illegal e (bs.drop (12 + be64 bs 4))
    | .ok i => .command i (bs.drop (12 + be64 bs 4))

/-! ### The encoder -/

/-- R304: the opcode of a command. -/
def Instr.opcode : Instr → Byte
  | .add32 _ => 0x01
  | .rotr32 _ => 0x02
  | .expand _ => 0x10
  | .step _ => 0x11
  | .compress _ => 0x12
  | .pad _ => 0x13
  | .hash _ => 0x14
  | .ctxInit _ _ => 0x20
  | .ctxAbsorb _ _ => 0x21
  | .ctxFinal _ _ => 0x22
  | .ctxClone _ _ _ => 0x23
  | .s2d _ => 0x30
  | .d2s _ => 0x31
  | .extend _ => 0x40
  | .forge _ => 0x41

/-- R303: the CA field of a command, 0 where the opcode does not use it. -/
def Instr.fieldCA : Instr → CtxIdx
  | .add32 _ => 0
  | .rotr32 _ => 0
  | .expand _ => 0
  | .step _ => 0
  | .compress _ => 0
  | .pad _ => 0
  | .hash _ => 0
  | .ctxInit ca _ => ca
  | .ctxAbsorb ca _ => ca
  | .ctxFinal ca _ => ca
  | .ctxClone ca _ _ => ca
  | .s2d _ => 0
  | .d2s _ => 0
  | .extend _ => 0
  | .forge _ => 0

/-- R303: the CB field of a command, 0 where the opcode does not use it. -/
def Instr.fieldCB : Instr → CtxIdx
  | .add32 _ => 0
  | .rotr32 _ => 0
  | .expand _ => 0
  | .step _ => 0
  | .compress _ => 0
  | .pad _ => 0
  | .hash _ => 0
  | .ctxInit _ _ => 0
  | .ctxAbsorb _ _ => 0
  | .ctxFinal _ _ => 0
  | .ctxClone _ cb _ => cb
  | .s2d _ => 0
  | .d2s _ => 0
  | .extend _ => 0
  | .forge _ => 0

/-- R302: the command word `RSV ‖ CB ‖ CA ‖ OPC`, bit 31 first. -/
def Instr.cmdWord (i : Instr) : Word := (0 : BitVec 16) ++ i.fieldCB ++ i.fieldCA ++ i.opcode

/-- R300: the frame `CMD ‖ PLEN ‖ P` of a command. -/
def encode (i : Instr) : Bytes := u32be i.cmdWord ++ u64be i.payload.length ++ i.payload

/-! ### The host's numbering of a table row -/

/-- The frame whose command word has the bits `w` (numbered as spec/opcode_table.json numbers them, the table's
rows being `nbits` = 32 wide) and whose later words (PLEN) are zero: big-endian, as R300 lays it out. -/
def tableFrame (nbits w : Nat) : Bytes := u32be (BitVec.ofNat 32 (w % 2 ^ nbits)) ++ u64be 0

/-- The command the decoder reads from the frame of a table word (log 7). -/
def decodeTableWord (nbits w : Nat) : Option Instr :=
  match decodeFrame (tableFrame nbits w) with
  | .command i _ => some i
  | .illegal _ _ => none
  | .waiting => none

end Sys2Proof
end

