-- ==== Sys2Proof/Machine/Flags.lean ====
section
/-! DEFINITION. The response status word (60_exceptions.md R601, R602) and the response frame (30_encoding.md R301).
The engine has no flags and no condition codes (10_state.md R111): the status word of a command's own response is
the only report of its outcome, and no later command reads it. -/

namespace Sys2Proof.Machine

/-- R602: the STATUS code. -/
def Status.code : Status → Byte
  | .ok => 0x00
  | .invalidInput => 0x01
  | .illegalCommand => 0x02
  | .badContext => 0x03
  | .contextInvalid => 0x04
  | .lengthRange => 0x05

/-- R603–R607: the status a cause is reported with. -/
def Cause.status : Cause → Status
  | .unassignedOpcode => .illegalCommand
  | .reservedNonzero => .illegalCommand
  | .unusedNonzero => .illegalCommand
  | .badTarget => .badContext
  | .badSource => .badContext
  | .targetInvalid => .contextInvalid
  | .sourceInvalid => .contextInvalid
  | .blockLength => .invalidInput
  | .digestLength => .invalidInput
  | .rotationAmount => .invalidInput
  | .payloadShape => .invalidInput
  | .forgeLength => .invalidInput
  | .lengthOver => .lengthRange
  | .countOver => .lengthRange
  | .extendedOver => .lengthRange

/-- R603–R607: the detail a cause is reported with. -/
def Cause.detail : Cause → Byte
  | .unassignedOpcode => 0x01
  | .reservedNonzero => 0x02
  | .unusedNonzero => 0x03
  | .badTarget => 0x01
  | .badSource => 0x02
  | .targetInvalid => 0x01
  | .sourceInvalid => 0x02
  | .blockLength => 0x01
  | .digestLength => 0x02
  | .rotationAmount => 0x03
  | .payloadShape => 0x04
  | .forgeLength => 0x05
  | .lengthOver => 0x01
  | .countOver => 0x02
  | .extendedOver => 0x03

/-- R603: the cause of each test of the decoder (R306). -/
def Cause.ofIllegal : Illegal → Cause
  | .unassignedOpcode => .unassignedOpcode
  | .reservedNonzero => .reservedNonzero
  | .unusedNonzero => .unusedNonzero

/-- R601: bits 31:16 are 0, bits 15:8 DETAIL, bits 7:0 STATUS. -/
def statusWord (detail : Byte) (st : Status) : Word := (0 : BitVec 16) ++ detail ++ st.code

/-- R601: the status word of an executed command, DETAIL 0. -/
def okWord : Word := statusWord 0 .ok

/-- R601: the status word of a refused command. -/
def Cause.word (c : Cause) : Word := statusWord c.detail c.status

/-- R601: the STATUS field of a response. -/
def Response.statusField (r : Response) : Byte := r.status.extractLsb' 0 8

/-- R601: the DETAIL field of a response. -/
def Response.detailField (r : Response) : Byte := r.status.extractLsb' 8 8

/-- R301: the bytes `STATUS ‖ RLEN ‖ D` of a response frame. -/
def Response.frame (r : Response) : Bytes := u32be r.status ++ u64be r.data.length ++ r.data

end Sys2Proof.Machine
end

