-- ==== Sys2Proof/Machine/Ops.lean ====
section
/-! DEFINITION. The operations every command shares: reading and writing the context file (10_state.md R101, R106),
answering a command with status OK (00_scope.md R12 `respond`), refusing one (R12 `raise`; 60_exceptions.md R600,
R610: the engine's only exception), the order of the checks (R608), and taking a reset (70_reset_and_hazards.md R700).
There is no return from an exception: a refusal enters no mode and saves nothing (R609, R610, R611). -/

namespace Sys2Proof.Machine

/-- R7: the parameter NCTX of the engine that holds this state. -/
def State.nctx (s : State) : Nat := s.ctxs.length

/-- R101, R303: `ctx[c]`.  Only used where `c < NCTX` (check 2, R604); an index past the file reads as a blank,
invalid context, so that the function is total. -/
def State.ctx (s : State) (c : CtxIdx) : Context := s.ctxs.getD c.toNat Context.blank

/-- R101, R106: `ctx[c] <- x`; no other context changes. -/
def State.setCtx (s : State) (c : CtxIdx) (x : Context) : State :=
  { s with ctxs := s.ctxs.set c.toNat x }

/-- R301: return one response frame after those already returned. -/
def State.emit (s : State) (r : Response) : State := { s with tx := s.tx ++ [r] }

/-- R12 `respond(D)`: the command ends with status OK and data `D`. -/
def respond (D : Bytes) (s : State) : Outcome := .next (s.emit ⟨okWord, D⟩)

/-- R12 `raise S(d)`, R600, R610: the command is refused.  No context is written, the response has the cause's status
and detail and RLEN = 0, and the next command is taken normally. -/
def raise (c : Cause) (s : State) : Outcome := .next (s.emit ⟨c.word, []⟩)

/-- A list of tests in priority order, each with the cause it raises. -/
abbrev Tests := List (Bool × Cause)

/-- R608: the first failing test decides, and no later test is evaluated. -/
def firstFailing : Tests → Option Cause
  | [] => none
  | (true, c) :: _ => some c
  | (false, _) :: rest => firstFailing rest

/-- R608: a command executes only when none of its tests fails; otherwise it is refused with the first cause. -/
def guarded (tests : Tests) (s : State) (body : Outcome) : Outcome :=
  match firstFailing tests with
  | some c => raise c s
  | none => body

/-- R603: a command word that spells no command is refused. -/
def raiseIllegal (e : Illegal) (s : State) : Outcome := raise (Cause.ofIllegal e) s

/-- R114, R700: context `c` after the reset number `draw`: VALID is 0, and H, BUF and CNT are free values (log 3). -/
def Context.afterReset (draw c : Nat) : Context where
  valid := false
  h := ⟨Config.resetWord draw c 0, Config.resetWord draw c 1, Config.resetWord draw c 2, Config.resetWord draw c 3,
        Config.resetWord draw c 4, Config.resetWord draw c 5, Config.resetWord draw c 6, Config.resetWord draw c 7⟩
  buf := Vector.ofFn fun i : Fin 64 => Config.resetByte draw c i.val
  cnt := Config.resetCount draw c

/-- R700: taking a reset.  Every context becomes invalid; queued and partly received frames are discarded; the engine
waits for a command frame.  Responses already returned are the host's and stay (log 5). -/
def takeReset (s : State) : State where
  ctxs := (List.range s.ctxs.length).map (Context.afterReset s.resets)
  rx := []
  tx := s.tx
  resetPin := false
  resets := s.resets + 1

end Sys2Proof.Machine
end

