-- ==== Sys2Proof/Machine/Operands.lean ====
section
/-! DEFINITION. The payload of each command (30_encoding.md R310): its typed fields, and the tests of checks 2 to 5
(60_exceptions.md R604–R607) in the order R608 gives them.  Check 1 is the decoder's (Decode.lean).  A field is read
only when the shape test has passed. -/

namespace Sys2Proof.Machine

/-! ### Fields -/

/-- R310 `state(o)`: eight big-endian words from offset `o`, H[0] = a first. -/
def chainAt (p : Bytes) (o : Nat) : Chain :=
  ⟨be32 p o, be32 p (o + 4), be32 p (o + 8), be32 p (o + 12),
   be32 p (o + 16), be32 p (o + 20), be32 p (o + 24), be32 p (o + 28)⟩

/-- R13, R311: the words H[0..7] of a State in index order. -/
def Chain.words (S : Chain) : List Word := [S.a, S.b, S.c, S.d, S.e, S.f, S.g, S.h]

/-- R310 ADD32: term j = word(4j), 0 ≤ j < PLEN / 4. -/
def termsOf (p : Bytes) : List Word := (List.range (p.length / 4)).map fun j => be32 p (4 * j)

/-- R310 ROTR32: x = word(0). -/
def rotrValue (p : Bytes) : Word := be32 p 0

/-- R310 ROTR32: n = word(4), read as a natural number. -/
def rotrAmount (p : Bytes) : Nat := (be32 p 4).toNat

/-- R310 EXTEND: L = len(32). -/
def extendLen (p : Bytes) : Nat := be64 p 32

/-- R310 FORGE: L = len(0). -/
def forgeLen (p : Bytes) : Nat := be64 p 0

/-! ### Tests of the commands that use no context -/

/-- R403, R607. -/
def add32Tests (p : Bytes) : Tests :=
  [(decide (p.length = 0 ∨ p.length % 4 ≠ 0), .payloadShape),
   (decide (Config.maxLen < p.length), .lengthOver)]

/-- R404: PLEN is tested before n. -/
def rotr32Tests (p : Bytes) : Tests :=
  [(decide (p.length ≠ 8), .payloadShape),
   (decide (¬ (0 < rotrAmount p ∧ rotrAmount p < 32)), .rotationAmount)]

/-- R423. -/
def expandTests (p : Bytes) : Tests := [(decide (p.length ≠ 64), .blockLength)]

/-- R446. -/
def stepTests (p : Bytes) : Tests := [(decide (p.length ≠ 40), .payloadShape)]

/-- R464: an incomplete state operand is tested before the block's length. -/
def compressTests (p : Bytes) : Tests :=
  [(decide (p.length < 32), .payloadShape),
   (decide (p.length ≠ 96), .blockLength)]

/-- R483. -/
def padTests (p : Bytes) : Tests :=
  [(decide (p.length ≠ 8), .payloadShape),
   (decide (Config.maxLen < be64 p 0), .lengthOver)]

/-- R508. -/
def hashTests (p : Bytes) : Tests := [(decide (Config.maxLen < p.length), .lengthOver)]

/-- R542. -/
def s2dTests (p : Bytes) : Tests := [(decide (p.length ≠ 32), .payloadShape)]

/-- R564, R607. -/
def forgeTests (p : Bytes) : Tests :=
  [(decide (p.length < 8), .payloadShape),
   (decide (p.length - 8 < forgeLen p), .forgeLength),
   (decide (Config.maxLen < p.length), .lengthOver)]

/-! ### Tests of the context commands -/

/-- R500, R604. -/
def ctxInitTests (ca : CtxIdx) (p : Bytes) (s : State) : Tests :=
  [(decide (s.nctx ≤ ca.toNat), .badTarget),
   (decide (p.length ≠ 0), .payloadShape)]

/-- R502, R604, R605, R607. -/
def ctxAbsorbTests (ca : CtxIdx) (p : Bytes) (s : State) : Tests :=
  [(decide (s.nctx ≤ ca.toNat), .badTarget),
   (!(s.ctx ca).valid, .targetInvalid),
   (decide (Config.maxLen < p.length), .lengthOver),
   (decide (Config.maxLen < (s.ctx ca).cnt.toNat + p.length), .countOver)]

/-- R504, R604, R605. -/
def ctxFinalTests (ca : CtxIdx) (p : Bytes) (s : State) : Tests :=
  [(decide (s.nctx ≤ ca.toNat), .badTarget),
   (!(s.ctx ca).valid, .targetInvalid),
   (decide (p.length ≠ 0), .payloadShape)]

/-- R506, R604, R605: the destination need not be valid. -/
def ctxCloneTests (ca cb : CtxIdx) (p : Bytes) (s : State) : Tests :=
  [(decide (s.nctx ≤ ca.toNat), .badTarget),
   (decide (s.nctx ≤ cb.toNat), .badSource),
   (!(s.ctx cb).valid, .sourceInvalid),
   (decide (p.length ≠ 0), .payloadShape)]

end Sys2Proof.Machine
end

