-- ==== Sys2Proof/Machine/WordOps.lean ====
section
/-! DEFINITION. WordOps (40_wordops.md R401–R405): 32-bit modular addition, rotation and shift, and the commands
ADD32 and ROTR32. -/

namespace Sys2Proof.Machine

/-- R401: the sum over the natural numbers, reduced modulo 2^32. -/
def add32 (ts : List Word) : Word := BitVec.ofNat 32 (ts.map BitVec.toNat).sum

/-- R405: the logical right shift, filling with zeros. -/
def shr (x : Word) (n : Nat) : Word := x >>> n

/-- R402: `(x >> n) ∨ (x << (32 − n))`, for 0 < n < 32. -/
def rotr (x : Word) (n : Nat) : Word := shr x n ||| (x <<< (32 - n))

/-- R403 ADD32. -/
def execAdd32 (p : Bytes) (s : State) : Outcome :=
  guarded (add32Tests p) s (respond (u32be (add32 (termsOf p))) s)

/-- R404 ROTR32. -/
def execRotr32 (p : Bytes) (s : State) : Outcome :=
  guarded (rotr32Tests p) s (respond (u32be (rotr (rotrValue p) (rotrAmount p))) s)

end Sys2Proof.Machine
end

