-- ==== Sys2Proof/Machine/Round.lean ====
section
/-! DEFINITION. The round function (42_round.md R440–R446) and the command STEP. -/

namespace Sys2Proof.Machine

/-- R440: Σ1. -/
def bigSigma1 (e : Word) : Word := rotr e 6 ^^^ rotr e 11 ^^^ rotr e 25

/-- R441: Σ0. -/
def bigSigma0 (a : Word) : Word := rotr a 2 ^^^ rotr a 13 ^^^ rotr a 22

/-- R442: choose. -/
def ch (e f g : Word) : Word := (e &&& f) ^^^ (~~~e &&& g)

/-- R443: majority. -/
def maj (a b c : Word) : Word := (a &&& b) ^^^ (a &&& c) ^^^ (b &&& c)

/-- R444: `step(S, k, w)`; all eight outputs are computed from the input values. -/
def roundStep (S : Chain) (k w : Word) : Chain :=
  let t1 := add32 [S.h, bigSigma1 S.e, ch S.e S.f S.g, k, w]
  let t2 := add32 [bigSigma0 S.a, maj S.a S.b S.c]
  ⟨add32 [t1, t2], S.a, S.b, S.c, add32 [S.d, t1], S.e, S.f, S.g⟩

/-- R446 STEP. -/
def execStep (p : Bytes) (s : State) : Outcome :=
  guarded (stepTests p) s
    (respond ((roundStep (chainAt p 0) (be32 p 32) (be32 p 36)).words.flatMap u32be) s)

end Sys2Proof.Machine
end

