-- ==== Sys2Proof/Machine/Schedule.lean ====
section
/-! DEFINITION. The message schedule expander (41_schedule.md R420–R423) and the command EXPAND. -/

namespace Sys2Proof.Machine

/-- R420: σ0. -/
def smallSigma0 (x : Word) : Word := rotr x 7 ^^^ rotr x 18 ^^^ shr x 3

/-- R421: σ1. -/
def smallSigma1 (x : Word) : Word := rotr x 17 ^^^ rotr x 19 ^^^ shr x 10

/-- R422: the sixteen words of a Block, word i = be32(block, 4i). -/
def blockWords (block : Bytes) : List Word := (List.range 16).map fun i => be32 block (4 * i)

/-- R422: W[i] from the words W[0..i) before it, i ≥ 16. -/
def nextWord (W : List Word) : Word :=
  add32 [W.getD (W.length - 16) 0, smallSigma0 (W.getD (W.length - 15) 0),
         W.getD (W.length - 7) 0, smallSigma1 (W.getD (W.length - 2) 0)]

/-- R422: the loop, `n` more words in increasing i. -/
def expandFrom : Nat → List Word → List Word
  | 0, W => W
  | n + 1, W => expandFrom n (W ++ [nextWord W])

/-- R422: `expand(block)`, the 64 words of the schedule. -/
def expand (block : Bytes) : List Word := expandFrom 48 (blockWords block)

/-- R423 EXPAND. -/
def execExpand (p : Bytes) (s : State) : Outcome :=
  guarded (expandTests p) s (respond ((expand p).flatMap u32be) s)

end Sys2Proof.Machine
end

