-- ==== Sys2Proof/Machine/Compression.lean ====
section
/-! DEFINITION. The compression function (43_compression.md R462, R463) and the command COMPRESS. -/

namespace Sys2Proof.Machine

/-- R462: the word-wise addition of the feed-forward. -/
def Chain.addWords (S V : Chain) : Chain :=
  ⟨add32 [S.a, V.a], add32 [S.b, V.b], add32 [S.c, V.c], add32 [S.d, V.d],
   add32 [S.e, V.e], add32 [S.f, V.f], add32 [S.g, V.g], add32 [S.h, V.h]⟩

/-- R462: the rounds, in increasing i, each with its pair (K[i], W[i]). -/
def rounds (V : Chain) (kws : List (Word × Word)) : Chain :=
  kws.foldl (fun V kw => roundStep V kw.1 kw.2) V

/-- R462: `compress(S, block)`, 64 rounds and the feed-forward. -/
def compress (S : Chain) (block : Bytes) : Chain := S.addWords (rounds S (K.zip (expand block)))

/-- R463: compress the first `n` 64-byte pieces of `D`, in order. -/
def feedBlocks : Nat → Chain → Bytes → Chain
  | 0, S, _ => S
  | n + 1, S, D => feedBlocks n (compress S (D.take 64)) (D.drop 64)

/-- R463: `feed(S, D)`, the 64-byte pieces of D in order. -/
def feed (S : Chain) (D : Bytes) : Chain := feedBlocks (D.length / 64) S D

/-- R464 COMPRESS. -/
def execCompress (p : Bytes) (s : State) : Outcome :=
  guarded (compressTests p) s
    (respond ((compress (chainAt p 0) (slice p 32 96)).words.flatMap u32be) s)

end Sys2Proof.Machine
end

