-- ==== Sys2Proof/Machine/Padding.lean ====
section
/-! DEFINITION. The padding formatter (44_padding.md R480–R483) and the command PAD. -/

namespace Sys2Proof.Machine

/-- R480: `z = (55 − n) mod 64`, the result of mod in 0..63. -/
def padZeros (n : Nat) : Nat := ((55 - (n : Int)) % 64).toNat

/-- R481: `padlen(n) = 9 + ((55 − n) mod 64)`. -/
def padlen (n : Nat) : Nat := 9 + padZeros n

/-- R480: `pad(n) = [0x80] ‖ zeros(z) ‖ u64be(8·n)`, for n ≤ MAXLEN. -/
def pad (n : Nat) : Bytes := [0x80] ++ zeros (padZeros n) ++ u64be (8 * n)

/-- R483 PAD. -/
def execPad (p : Bytes) (s : State) : Outcome :=
  guarded (padTests p) s (respond (pad (be64 p 0)) s)

end Sys2Proof.Machine
end

