-- ==== Sys2Proof/Machine/StateCodec.lean ====
section
/-! DEFINITION. The state codec (46_state_codec.md R540–R544) and the commands S2D and D2S. -/

namespace Sys2Proof.Machine

/-- R540: `stateToDigest(S)`, the eight words big-endian, in order. -/
def stateToDigest (S : Chain) : Bytes := S.words.flatMap u32be

/-- R541: `digestToState(d)`; a length other than 32 raises INVALID_INPUT 0x02. -/
def digestToState (d : Bytes) : Except Cause Chain :=
  if d.length ≠ 32 then .error .digestLength else .ok (chainAt d 0)

/-- R542 S2D: the operand is a State. -/
def execS2d (p : Bytes) (s : State) : Outcome :=
  guarded (s2dTests p) s (respond (stateToDigest (chainAt p 0)) s)

/-- R543 D2S: the result is a State, serialized as its words. -/
def execD2s (p : Bytes) (s : State) : Outcome :=
  match digestToState p with
  | .error c => raise c s
  | .ok S => respond (S.words.flatMap u32be) s

end Sys2Proof.Machine
end

