-- ==== Sys2Proof/Machine/Streaming.lean ====
section
/-! DEFINITION. The streaming hash contexts and the one-shot hash (45_streaming.md R500–R510) and the commands
CTX_INIT, CTX_ABSORB, CTX_FINAL, CTX_CLONE and HASH. -/

namespace Sys2Proof.Machine

/-- R104: `fill = CNT mod 64`. -/
def Context.fill (x : Context) : Nat := x.cnt.toNat % 64

/-- R501: `BUF[CNT mod 64] <- b`. -/
def Context.putByte (x : Context) (b : Byte) : Vector Byte 64 :=
  x.buf.set (x.cnt.toNat % 64) b (Nat.mod_lt _ (by decide))

/-- R501: absorb one byte; a full buffer is compressed at once, and BUF keeps its bytes as stale contents (log 8). -/
def Context.absorbByte (x : Context) (b : Byte) : Context where
  valid := x.valid
  h := if (x.cnt + 1).toNat % 64 = 0 then compress x.h (x.putByte b).toList else x.h
  buf := x.putByte b
  cnt := x.cnt + 1

/-- R502: the bytes one after another, in increasing i. -/
def Context.absorb (x : Context) (data : Bytes) : Context := data.foldl Context.absorbByte x

/-- R500: VALID, H and CNT are written; BUF is not. -/
def Context.initialised (x : Context) : Context := { x with valid := true, h := IV, cnt := 0 }

/-- R503: the final buffer, `BUF[0..r) ‖ pad(CNT)`. -/
def Context.tail (x : Context) : Bytes := x.buf.toList.take x.fill ++ pad x.cnt.toNat

/-- R503: `finalDigest(c)`, computed on a copy of H. -/
def Context.finalDigest (x : Context) : Bytes := stateToDigest (feed x.h x.tail)

/-- R508: `hash(m)`. -/
def hash (m : Bytes) : Bytes := stateToDigest (feed IV (m ++ pad m.length))

/-- R500 CTX_INIT. -/
def execCtxInit (ca : CtxIdx) (p : Bytes) (s : State) : Outcome :=
  guarded (ctxInitTests ca p s) s (respond [] (s.setCtx ca (s.ctx ca).initialised))

/-- R502 CTX_ABSORB. -/
def execCtxAbsorb (ca : CtxIdx) (p : Bytes) (s : State) : Outcome :=
  guarded (ctxAbsorbTests ca p s) s (respond [] (s.setCtx ca ((s.ctx ca).absorb p)))

/-- R504 CTX_FINAL: no state is written. -/
def execCtxFinal (ca : CtxIdx) (p : Bytes) (s : State) : Outcome :=
  guarded (ctxFinalTests ca p s) s (respond (s.ctx ca).finalDigest s)

/-- R506 CTX_CLONE: every field is copied. -/
def execCtxClone (ca cb : CtxIdx) (p : Bytes) (s : State) : Outcome :=
  guarded (ctxCloneTests ca cb p s) s (respond [] (s.setCtx ca (s.ctx cb)))

/-- R508 HASH: no context is read or written. -/
def execHash (p : Bytes) (s : State) : Outcome :=
  guarded (hashTests p) s (respond (hash p) s)

end Sys2Proof.Machine
end

