-- ==== Sys2Proof/Machine/LengthExtension.lean ====
section
/-! DEFINITION. Length-extension state reconstitution (47_length_extension.md R560–R566) and the commands EXTEND
and FORGE. -/

namespace Sys2Proof.Machine

/-- R560: `extendedLength(L, s) = L + padlen(L) + s`. -/
def extendedLength (L s : Nat) : Nat := L + padlen L + s

/-- R561: `extend(G, L, suffix)`, for a 32-byte G: the chain goes on from the State that G spells. -/
def extend (G : Bytes) (L : Nat) (suffix : Bytes) : Bytes :=
  stateToDigest (feed (chainAt G 0) (suffix ++ pad (extendedLength L suffix.length)))

/-- R563: `original ‖ pad(|original|) ‖ suffix`. -/
def forgedMessage (original suffix : Bytes) : Bytes := original ++ pad original.length ++ suffix

/-- R562, R607: PLEN < 40, then PLEN, L and the extended length against MAXLEN. -/
def extendTests (p : Bytes) : Tests :=
  [(decide (p.length < 40), .payloadShape),
   (decide (Config.maxLen < p.length), .lengthOver),
   (decide (Config.maxLen < extendLen p), .lengthOver),
   (decide (Config.maxLen < extendedLength (extendLen p) (p.length - 40)), .extendedOver)]

/-- R562 EXTEND. -/
def execExtend (p : Bytes) (s : State) : Outcome :=
  guarded (extendTests p) s
    (respond (extend (slice p 0 32) (extendLen p) (slice p 40 p.length)) s)

/-- R564 FORGE. -/
def execForge (p : Bytes) (s : State) : Outcome :=
  guarded (forgeTests p) s
    (respond (forgedMessage (slice p 8 (8 + forgeLen p)) (slice p (8 + forgeLen p) p.length)) s)

end Sys2Proof.Machine
end

