-- ==== Sys2Proof/Machine/Dispatch.lean ====
section
/-! DEFINITION. One arm per command (30_encoding.md R304): the meaning each one has. -/

namespace Sys2Proof.Machine

def exec (i : Instr) (s : State) : Host.Outcome State Fault Refusal :=
  match i with
  | .add32 p => Sys2Proof.Machine.execAdd32 p s
  | .rotr32 p => Sys2Proof.Machine.execRotr32 p s
  | .expand p => Sys2Proof.Machine.execExpand p s
  | .step p => Sys2Proof.Machine.execStep p s
  | .compress p => Sys2Proof.Machine.execCompress p s
  | .pad p => Sys2Proof.Machine.execPad p s
  | .hash p => Sys2Proof.Machine.execHash p s
  | .ctxInit ca p => Sys2Proof.Machine.execCtxInit ca p s
  | .ctxAbsorb ca p => Sys2Proof.Machine.execCtxAbsorb ca p s
  | .ctxFinal ca p => Sys2Proof.Machine.execCtxFinal ca p s
  | .ctxClone ca cb p => Sys2Proof.Machine.execCtxClone ca cb p s
  | .s2d p => Sys2Proof.Machine.execS2d p s
  | .d2s p => Sys2Proof.Machine.execD2s p s
  | .extend p => Sys2Proof.Machine.execExtend p s
  | .forge p => Sys2Proof.Machine.execForge p s

end Sys2Proof.Machine
end

