-- ==== Sys2Proof/Machine/HostPort.lean ====
section
/-! DEFINITION. What the host does to the engine between two steps (60_exceptions.md R630): it sends bytes, reads the
oldest response, and asserts reset.  These are the only inputs of the machine. -/

namespace Sys2Proof.Machine

/-- R300, R630: bytes of command frames arrive, after those that have arrived already. -/
def State.hostSend (s : State) (bs : Bytes) : State := { s with rx := s.rx ++ bs }

/-- R630: the host reads the oldest response; the engine keeps no copy. -/
def State.hostRead (s : State) : Option (Response × State) :=
  match s.tx with
  | [] => none
  | r :: rest => some (r, { s with tx := rest })

/-- R630, R700: the host asserts reset; the engine's next step takes it (log 6). -/
def State.hostReset (s : State) : State := { s with resetPin := true }

/-- The frame of a table word placed where the next step fetches: at the front of the bytes that have arrived, with no
reset asserted (log 7). -/
def State.placeFrame (s : State) (frame : Bytes) : State :=
  { s with rx := frame ++ s.rx, resetPin := false }

end Sys2Proof.Machine
end

