-- ==== Sys2Proof/Machine/Step.lean ====
section
/-! DEFINITION. One step of the engine (20_memory.md R210; 30_encoding.md R300; 70_reset_and_hazards.md R700): take an
asserted reset; otherwise take the oldest complete command frame and run its command, atomically (R206); otherwise wait,
changing no state. -/

namespace Sys2Proof.Machine

def step (s : State) : Host.Outcome State Fault Refusal :=
  if s.resetPin then .next (takeReset s)
  else
    match decodeFrame s.rx with
    | .waiting => .next s
    | .illegal e rest => raiseIllegal e { s with rx := rest }
    | .command i rest => exec i { s with rx := rest }

/-- The state whose next step fetches and runs exactly the command of a table word. -/
def State.withFetchWord (s : State) (nbits w : Nat) : State := s.placeFrame (tableFrame nbits w)

end Sys2Proof.Machine
end

