-- ==== Sys2Proof/Machine/Assembler.lean ====
section
/-! DEFINITION. The assembler (30_encoding.md R320, R321): one line of text to the commands it stands for.  It is a tool
of the host: the engine sees only the frames (`encode`) of the commands, never a mnemonic or a pseudo-instruction.
What R320 leaves open about the text (white space, a number out of range, an empty line) is log 16. -/

namespace Sys2Proof.Machine

/-- R304, R321: the mnemonics of the commands and of the two pseudo-instructions. -/
inductive Mnemonic where
  | add32 | rotr32 | expand | step | compress | pad | hash
  | ctxInit | ctxAbsorb | ctxFinal | ctxClone | s2d | d2s | extend | forge
  | ctxHash | ctxFork
deriving DecidableEq, Repr

/-- R320: an operand of a line. -/
inductive Operand where
  /-- `c<N>`, 0 ≤ N < 16 -/
  | ctx (c : CtxIdx)
  /-- a decimal or `0x` hexadecimal number -/
  | num (n : Nat)
  /-- a byte string, joined with `++` -/
  | bytes (b : Bytes)
  /-- a State, eight words in braces -/
  | state (S : Chain)
deriving DecidableEq, Repr

/-- The tokens of a line. -/
inductive Token where
  | word (cs : List Char)
  | bytes (b : Bytes)
  | comma
  | join
  | openBrace
  | closeBrace
deriving DecidableEq, Repr

/-! ### Operands to commands -/

/-- A number that fits a 32-bit word operand. -/
def word32? (n : Nat) : Option Word := if n < 2 ^ 32 then some (BitVec.ofNat 32 n) else none

/-- R320 ADD32: its operands are one or more words. -/
def addTerms? : List Operand → Option (List Word)
  | [] => some []
  | .num n :: rest =>
    match word32? n, addTerms? rest with
    | some w, some ws => some (w :: ws)
    | _, _ => none
  | _ :: _ => none

/-- R310: a State operand as the payload holds it. -/
def stateBytes (S : Chain) : Bytes := S.words.flatMap u32be

/-- R320, R321: the commands of a mnemonic with its operands; `none` where the operands are not the mnemonic's. -/
def assemble : Mnemonic → List Operand → Option (List Instr)
  | .add32, o :: os => (addTerms? (o :: os)).map fun ts => [.add32 (ts.flatMap u32be)]
  | .rotr32, [.num x, .num n] =>
    match word32? x, word32? n with
    | some x, some n => some [.rotr32 (u32be x ++ u32be n)]
    | _, _ => none
  | .expand, [.bytes b] => some [.expand b]
  | .step, [.state S, .num k, .num w] =>
    match word32? k, word32? w with
    | some k, some w => some [.step (stateBytes S ++ u32be k ++ u32be w)]
    | _, _ => none
  | .compress, [.state S, .bytes b] => some [.compress (stateBytes S ++ b)]
  | .pad, [.num n] => if n < 2 ^ 64 then some [.pad (u64be n)] else none
  | .hash, [.bytes b] => some [.hash b]
  | .ctxInit, [.ctx a] => some [.ctxInit a []]
  | .ctxAbsorb, [.ctx a, .bytes b] => some [.ctxAbsorb a b]
  | .ctxFinal, [.ctx a] => some [.ctxFinal a []]
  | .ctxClone, [.ctx a, .ctx b] => some [.ctxClone a b []]
  | .s2d, [.state S] => some [.s2d (stateBytes S)]
  | .d2s, [.bytes g] => some [.d2s g]
  | .extend, [.bytes g, .num l, .bytes d] => if l < 2 ^ 64 then some [.extend (g ++ u64be l ++ d)] else none
  | .forge, [.bytes m, .bytes d] => some [.forge (u64be m.length ++ m ++ d)]
  | .ctxHash, [.ctx a, .bytes d] => some [.ctxInit a [], .ctxAbsorb a d, .ctxFinal a []]
  | .ctxFork, [.ctx a, .ctx b, .bytes d] => some [.ctxClone a b [], .ctxAbsorb a d]
  | _, _ => none

/-! ### Text to tokens -/

/-- The value of a hexadecimal digit. -/
def hexDigit? (c : Char) : Option Nat :=
  if '0' ≤ c ∧ c ≤ '9' then some (c.toNat - 48)
  else if 'a' ≤ c ∧ c ≤ 'f' then some (c.toNat - 87)
  else if 'A' ≤ c ∧ c ≤ 'F' then some (c.toNat - 55)
  else none

/-- The number that digits of a base spell; `none` where a character is no digit of the base. -/
def digits? (base : Nat) : Nat → List Char → Option Nat
  | acc, [] => some acc
  | acc, c :: cs =>
    match hexDigit? c with
    | some d => if d < base then digits? base (acc * base + d) cs else none
    | none => none

/-- R320: a decimal or `0x` hexadecimal number. -/
def number? : List Char → Option Nat
  | [] => none
  | '0' :: 'x' :: c :: cs => digits? 16 0 (c :: cs)
  | c :: cs => digits? 10 0 (c :: cs)

/-- R320: the characters of a byte string up to its closing quote (character 34), with the `\xHH` escapes
(backslash is character 92), and what follows the quote. -/
def quoted? : List Char → Option (Bytes × List Char)
  | [] => none
  | c :: cs =>
    if c.toNat = 34 then some ([], cs)
    else if c.toNat = 92 then
      match cs with
      | 'x' :: h :: l :: rest =>
        match hexDigit? h, hexDigit? l, quoted? rest with
        | some h, some l, some (b, rest) => some (BitVec.ofNat 8 (16 * h + l) :: b, rest)
        | _, _, _ => none
      | _ => none
    else if c.toNat < 128 then (quoted? cs).map fun r => (BitVec.ofNat 8 c.toNat :: r.1, r.2)
    else none

/-- R320: the hexadecimal digits of `x"<hex digits>"` up to the closing quote, two for each byte.  DESIGN CHOICE (log 16),
unsafe: R320 does not say what an odd number of digits or a blank between digits means; the line is rejected. -/
def hexQuoted? : List Char → Option (Bytes × List Char)
  | [] => none
  | c :: cs =>
    if c.toNat = 34 then some ([], cs)
    else
      match cs with
      | [] => none
      | l :: rest =>
        match hexDigit? c, hexDigit? l, hexQuoted? rest with
        | some h, some l, some (b, rest) => some (BitVec.ofNat 8 (16 * h + l) :: b, rest)
        | _, _, _ => none

/-- The characters of mnemonics, contexts and numbers. -/
def isWordChar (c : Char) : Bool := c.isAlphanum || c == '_'

/-- R320: the tokens of a line; `;` begins a comment.  `fuel` bounds the length of the text. -/
def tokens? (fuel : Nat) (cs : List Char) : Option (List Token) :=
  match fuel, cs with
  | _, [] => some []
  | 0, _ :: _ => none
  | n + 1, c :: cs =>
    if c.toNat = 59 then some []
    else if c = ' ' ∨ c.toNat = 9 then tokens? n cs
    else if c = ',' then (tokens? n cs).map (Token.comma :: ·)
    else if c.toNat = 123 then (tokens? n cs).map (Token.openBrace :: ·)
    else if c.toNat = 125 then (tokens? n cs).map (Token.closeBrace :: ·)
    else if c = '+' ∧ cs.head? = some '+' then (tokens? n (cs.drop 1)).map (Token.join :: ·)
    else if c.toNat = 34 then
      match quoted? cs with
      | some (b, rest) => (tokens? n rest).map (Token.bytes b :: ·)
      | none => none
    else if c = 'x' ∧ cs.head?.map Char.toNat = some 34 then
      match hexQuoted? (cs.drop 1) with
      | some (b, rest) => (tokens? n rest).map (Token.bytes b :: ·)
      | none => none
    else if isWordChar c then
      (tokens? n (cs.dropWhile isWordChar)).map (Token.word (c :: cs.takeWhile isWordChar) :: ·)
    else none

/-! ### Tokens to operands -/

/-- R320: a context `c<N>` or a number. -/
def wordOperand? : List Char → Option Operand
  | 'c' :: d :: ds =>
    match digits? 10 0 (d :: ds) with
    | some n => if n < 16 then some (.ctx (BitVec.ofNat 4 n)) else none
    | none => none
  | cs => (number? cs).map .num

/-- A number token that fits a word. -/
def wordToken? (cs : List Char) : Option Word :=
  match number? cs with
  | some n => word32? n
  | none => none

/-- R320: byte strings joined with `++`. -/
def joined? : List Token → Option (Bytes × List Token)
  | .bytes b :: .join :: rest => (joined? rest).map fun r => (b ++ r.1, r.2)
  | .bytes b :: rest => some (b, rest)
  | _ => none

/-- One operand and the tokens after it. -/
def operand? : List Token → Option (Operand × List Token)
  | .word cs :: rest => (wordOperand? cs).map fun o => (o, rest)
  | .openBrace :: .word a :: .comma :: .word b :: .comma :: .word c :: .comma :: .word d :: .comma ::
      .word e :: .comma :: .word f :: .comma :: .word g :: .comma :: .word h :: .closeBrace :: rest =>
    match wordToken? a, wordToken? b, wordToken? c, wordToken? d,
          wordToken? e, wordToken? f, wordToken? g, wordToken? h with
    | some a, some b, some c, some d, some e, some f, some g, some h => some (.state ⟨a, b, c, d, e, f, g, h⟩, rest)
    | _, _, _, _, _, _, _, _ => none
  | ts => (joined? ts).map fun r => (.bytes r.1, r.2)

/-- The operands of a line, separated by commas; `fuel` bounds their number. -/
def operands? : Nat → List Token → Option (List Operand)
  | 0, _ => none
  | n + 1, ts =>
    match operand? ts with
    | some (o, []) => some [o]
    | some (o, .comma :: rest) => (operands? n rest).map (o :: ·)
    | _ => none

/-- R304, R320: a mnemonic's spelling in capitals. -/
def Mnemonic.spelling : Mnemonic → List Char
  | .add32 => ['A', 'D', 'D', '3', '2']
  | .rotr32 => ['R', 'O', 'T', 'R', '3', '2']
  | .expand => ['E', 'X', 'P', 'A', 'N', 'D']
  | .step => ['S', 'T', 'E', 'P']
  | .compress => ['C', 'O', 'M', 'P', 'R', 'E', 'S', 'S']
  | .pad => ['P', 'A', 'D']
  | .hash => ['H', 'A', 'S', 'H']
  | .ctxInit => ['C', 'T', 'X', '_', 'I', 'N', 'I', 'T']
  | .ctxAbsorb => ['C', 'T', 'X', '_', 'A', 'B', 'S', 'O', 'R', 'B']
  | .ctxFinal => ['C', 'T', 'X', '_', 'F', 'I', 'N', 'A', 'L']
  | .ctxClone => ['C', 'T', 'X', '_', 'C', 'L', 'O', 'N', 'E']
  | .s2d => ['S', '2', 'D']
  | .d2s => ['D', '2', 'S']
  | .extend => ['E', 'X', 'T', 'E', 'N', 'D']
  | .forge => ['F', 'O', 'R', 'G', 'E']
  | .ctxHash => ['C', 'T', 'X', '_', 'H', 'A', 'S', 'H']
  | .ctxFork => ['C', 'T', 'X', '_', 'F', 'O', 'R', 'K']

/-- All mnemonics. -/
def Mnemonic.all : List Mnemonic :=
  [.add32, .rotr32, .expand, .step, .compress, .pad, .hash, .ctxInit, .ctxAbsorb, .ctxFinal, .ctxClone,
   .s2d, .d2s, .extend, .forge, .ctxHash, .ctxFork]

/-- R320: the mnemonic a word spells, case-insensitive. -/
def mnemonic? (cs : List Char) : Option Mnemonic :=
  Mnemonic.all.find? fun m => m.spelling == cs.map Char.toUpper

/-- R320, R321: the commands of one line; an empty line or a comment alone has none. -/
def assembleLine (line : List Char) : Option (List Instr) :=
  match tokens? line.length line with
  | some [] => some []
  | some (.word m :: ts) =>
    match mnemonic? m, operands? ts.length ts with
    | some m, some os => assemble m os
    | _, _ => none
  | _ => none

end Sys2Proof.Machine
end

