-- ==== Sys2Proof/Machine/Run.lean ====
section
/-! DEFINITION. A run and its observation (60_exceptions.md R631): the host's actions (R630) and the engine's steps in any
order, what the host has read so far, when the run has ended, and what it shows. -/

namespace Sys2Proof.Machine

/-- R630, R631: what happens next, in an order that the spec leaves free: the host acts, or the engine makes a step. -/
inductive Event where
  /-- the host sends bytes of command frames -/
  | send (bs : Bytes)
  /-- the host reads the oldest response -/
  | read
  /-- the host asserts reset -/
  | reset
  /-- the engine makes a step -/
  | step
deriving DecidableEq, Repr

/-- R631: a run so far.  Only `machine` is state of the engine, which keeps no copy of a response that the host has
read (R630); the rest is what the run has shown. -/
structure Run where
  /-- the engine now -/
  machine : State
  /-- the responses the host has read since the run began, oldest first -/
  seen : List Response
  /-- how many responses of an earlier run waited unread when this one began (log 5) -/
  earlier : Nat
deriving DecidableEq, Repr

/-- R631: the run that begins at a state, which is one right after reset (power-on, or a reset just taken). -/
def Run.start (s : State) : Run := ⟨s, [], s.tx.length⟩

/-- R630: the host reads the oldest response; where none waits, nothing happens. -/
def Run.read (r : Run) : Run :=
  match r.machine.hostRead with
  | none => r
  | some (x, t) => { r with machine := t, seen := r.seen ++ [x] }

/-- R631: a step of the engine within a run.  A step that takes a reset begins a new run.  (`none` where the machine
stops, which it never does, log 9.) -/
def Run.step (r : Run) : Option Run :=
  match Sys2Proof.Machine.step r.machine with
  | .next t => some (if r.machine.resetPin then Run.start t else { r with machine := t })
  | .fault _ => none
  | .refused _ => none

/-- R630, R631: one event of a run. -/
def Run.event (r : Run) : Event → Option Run
  | .send bs => some { r with machine := r.machine.hostSend bs }
  | .read => some r.read
  | .reset => some { r with machine := r.machine.hostReset }
  | .step => r.step

/-- R631: a run after a sequence of events. -/
def Run.after (r : Run) : List Event → Option Run
  | [] => some r
  | e :: es =>
    match r.event e with
    | some r' => r'.after es
    | none => none

/-- R630: the bytes the host sends in a sequence of events. -/
def sentBytes : List Event → Bytes
  | [] => []
  | .send bs :: es => bs ++ sentBytes es
  | _ :: es => sentBytes es

/-- R631: a run has ended when the response to its last frame has been returned: every byte that the host sent has
been taken, as part of a frame that is answered.  A frame partly received has not been. -/
def Run.ended (r : Run) : Bool := r.machine.rx.isEmpty && !r.machine.resetPin

/-- R301, R631: the responses of a run in order, those the host has read and then those that wait, without those of an
earlier run. -/
def Run.responses (r : Run) : List Response := (r.seen ++ r.machine.tx).drop r.earlier

/-- R631: what a run shows. -/
structure Observation where
  /-- the response frames, in order -/
  responses : List Bytes
  /-- the final context file, which the host sees only through later CTX_FINAL commands -/
  contexts : List Context
deriving DecidableEq, Repr

/-- R631: the observation of a run that has ended; a run that has not ended has none yet. -/
def Run.observation (r : Run) : Option Observation :=
  if r.ended then some ⟨r.responses.map Response.frame, r.machine.ctxs⟩ else none

end Sys2Proof.Machine
end

