-- ==== Sys2Proof/Safety.lean ====
section
/-! DEFINITION. The terms that claims about runs are stated in: the invariant of the engine, runs as folds
(20_memory.md R210), and when two states differ only in what no command can read (10_state.md R102, R104). -/

namespace Sys2Proof.Machine

/-- R105: in a valid context CNT ≤ MAXLEN. -/
def Context.CountInRange (x : Context) : Prop := x.valid = true → x.cnt.toNat ≤ Config.maxLen

/-- R301, R601, R602: a response the engine may return: bits 31:16 of its status word are 0, STATUS is one of the six
codes, DETAIL is 0 when the status is OK, the data is empty when it is not, and the length fits RLEN. -/
def Response.Legal (r : Response) : Prop :=
  r.status.extractLsb' 16 16 = 0 ∧ r.statusField.toNat ≤ 5 ∧
  (r.statusField = 0 → r.detailField = 0) ∧ (r.statusField ≠ 0 → r.data = []) ∧ r.data.length < 2 ^ 64

/-- The invariant of the engine: the number of contexts is in the range of NCTX (R7), every valid context's count is in
range (R105), and every response returned is legal. -/
structure State.Inv (s : State) : Prop where
  nctx_ge : Config.nctxMin ≤ s.nctx
  nctx_le : s.nctx ≤ Config.nctxMax
  counts : ∀ x ∈ s.ctxs, x.CountInRange
  responses : ∀ r ∈ s.tx, r.Legal

/-- R301: the response frames returned and not yet read by the host, in order.  What a whole run shows, those already read and
the final context file with them, is `Run.observation` (R631). -/
def State.observed (s : State) : List Bytes := s.tx.map Response.frame

/-- R102, R104: two contexts differ at most in what no command reads: everything but VALID while VALID = 0, and the
stale bytes of BUF while VALID = 1. -/
def Context.Same (x y : Context) : Prop :=
  x.valid = y.valid ∧
  (x.valid = true → x.h = y.h ∧ x.cnt = y.cnt ∧ x.buf.toList.take x.fill = y.buf.toList.take y.fill)

/-- Two states that the host cannot tell apart: the same interface, and contexts that agree up to unreadable contents. -/
structure State.Same (s t : State) : Prop where
  ctxs : List.Forall₂ Context.Same s.ctxs t.ctxs
  rx : s.rx = t.rx
  tx : s.tx = t.tx
  resetPin : s.resetPin = t.resetPin

/-- R12, R601: the state after the command in progress answered OK (status word 0) with data `D`, writing nothing else. -/
def State.answered (s : State) (D : Bytes) : State := { s with tx := s.tx ++ [⟨0, D⟩] }

/-- R601, R610: the state after the command in progress was refused with the status word `w`. -/
def State.refusedWith (s : State) (w : Word) : State := { s with tx := s.tx ++ [⟨w, []⟩] }

/-- R210: commands executed one at a time, to completion, in order. -/
def runAll : List Instr → State → Outcome
  | [], s => .next s
  | i :: is, s =>
    match exec i s with
    | .next t => runAll is t
    | .fault f => .fault f
    | .refused r => .refused r

/-- R300, R306: the command of a complete frame with the command word and payload given: executed, or refused as
illegal. -/
def execFrame (f : Word × Bytes) (s : State) : Outcome :=
  match decodeWord f.1 f.2 with
  | .error e => raiseIllegal e s
  | .ok i => exec i s

/-- R210: the fold of the command rules over the frames of a queue. -/
def runFrames : List (Word × Bytes) → State → Outcome
  | [], s => .next s
  | f :: fs, s =>
    match execFrame f s with
    | .next t => runFrames fs t
    | .fault e => .fault e
    | .refused r => .refused r

/-- R300: the bytes of a frame with the command word and payload given. -/
def frameBytes (f : Word × Bytes) : Bytes := u32be f.1 ++ u64be f.2.length ++ f.2

/-- The machine run for a number of steps. -/
def runSteps : Nat → State → Outcome
  | 0, s => .next s
  | k + 1, s =>
    match step s with
    | .next t => runSteps k t
    | .fault f => .fault f
    | .refused r => .refused r

end Sys2Proof.Machine

namespace Sys2Proof

/-- R207: the commands that change no state. -/
def Instr.isPure : Instr → Bool
  | .add32 _ => true
  | .rotr32 _ => true
  | .expand _ => true
  | .step _ => true
  | .compress _ => true
  | .pad _ => true
  | .hash _ => true
  | .ctxInit _ _ => false
  | .ctxAbsorb _ _ => false
  | .ctxFinal _ _ => true
  | .ctxClone _ _ _ => false
  | .s2d _ => true
  | .d2s _ => true
  | .extend _ => true
  | .forge _ => true

end Sys2Proof

namespace Sys2Proof.Machine

/-- The primes up to `n`, in order, for the definitions of the constant tables (R110, R461). -/
def primesUpTo (n : Nat) : List Nat :=
  (List.range (n + 1)).filter fun p => 2 ≤ p && (List.range p).all fun d => d < 2 || p % d != 0

end Sys2Proof.Machine
end

