-- ==== Sys2Proof/Certificates/Slice0/Obligations.lean ====
section
/-! DEFINITION. The statements for the provers.  Each says which rule of the spec it formalises.  `s.answered D` is `s` with
one more response of status word 0 and data `D`; `s.refusedWith w` is `s` with one more response of status word `w` and no
data (Safety.lean): an equation with either says that NOTHING else of the state changes. -/

open Sys2Proof Sys2Proof.Machine

/-! ## Encoding and fetching -/

/-- Sanity: frames written out from R300, R302 and R304 decode to the commands they stand for. -/
def Obligations.WrittenFramesDecode : Prop :=
  decodeFrame [0, 0, 0, 0x02, 0, 0, 0, 0, 0, 0, 0, 8, 0x12, 0x34, 0x56, 0x78, 0, 0, 0, 4]
      = .command (.rotr32 [0x12, 0x34, 0x56, 0x78, 0, 0, 0, 4]) [] ∧
  decodeFrame [0, 0, 0x03, 0x21, 0, 0, 0, 0, 0, 0, 0, 2, 0x78, 0x79, 0x7a] = .command (.ctxAbsorb 3 [0x78, 0x79]) [0x7a] ∧
  decodeFrame [0, 0, 0x30, 0x23, 0, 0, 0, 0, 0, 0, 0, 0] = .command (.ctxClone 0 3 []) [] ∧
  decodeFrame [0, 1, 0, 0x14, 0, 0, 0, 0, 0, 0, 0, 0] = .illegal .reservedNonzero [] ∧
  decodeFrame [0, 0, 0, 0x14, 0, 0, 0, 0, 0, 0, 0, 1] = .waiting

/-- R306: the tests of the decoder in their order, on the fields of the command word as numbers (R302), and the status word
each is reported with. -/
def Obligations.DecoderTestsInOrder : Prop :=
  ∀ (cmd : Word) (p : Bytes) (opc ca cb rsv : Nat),
    opc = cmd.toNat % 256 → ca = cmd.toNat / 256 % 16 → cb = cmd.toNat / 4096 % 16 → rsv = cmd.toNat / 65536 →
    (opc ∉ [0x01, 0x02, 0x10, 0x11, 0x12, 0x13, 0x14, 0x20, 0x21, 0x22, 0x23, 0x30, 0x31, 0x40, 0x41] →
      decodeWord cmd p = .error .unassignedOpcode) ∧
    (opc ∈ [0x01, 0x02, 0x10, 0x11, 0x12, 0x13, 0x14, 0x20, 0x21, 0x22, 0x23, 0x30, 0x31, 0x40, 0x41] →
      (rsv ≠ 0 → decodeWord cmd p = .error .reservedNonzero) ∧
      (rsv = 0 → opc ∉ [0x20, 0x21, 0x22, 0x23] → (ca ≠ 0 ∨ cb ≠ 0) → decodeWord cmd p = .error .unusedNonzero) ∧
      (rsv = 0 → opc ∈ [0x20, 0x21, 0x22] → cb ≠ 0 → decodeWord cmd p = .error .unusedNonzero) ∧
      (rsv = 0 → (opc ∉ [0x20, 0x21, 0x22, 0x23] → ca = 0 ∧ cb = 0) → (opc ∈ [0x20, 0x21, 0x22] → cb = 0) →
        ∃ i, decodeWord cmd p = .ok i ∧ i.opcode.toNat = opc ∧ i.fieldCA.toNat = ca ∧ i.fieldCB.toNat = cb ∧
          i.payload = p)) ∧
    (Cause.ofIllegal .unassignedOpcode).word = 0x00000102 ∧ (Cause.ofIllegal .reservedNonzero).word = 0x00000202 ∧
    (Cause.ofIllegal .unusedNonzero).word = 0x00000302

/-- Decoding the encoding of a well-formed command, with any bytes after it, gives back the command with every operand and
leaves those bytes (R300, R302, R304). -/
def Obligations.DecodeOfEncode : Prop :=
  ∀ (i : Instr) (rest : Bytes), i.wellFormed = true → decodeFrame (encode i ++ rest) = .command i rest

/-- The other direction: bytes that decode to a command are that command's frame and the rest, so no two frames decode to one
command (D4: no alias). -/
def Obligations.EncodeOfDecode : Prop :=
  ∀ (bs : Bytes) (i : Instr) (rest : Bytes), decodeFrame bs = .command i rest →
    i.wellFormed = true ∧ bs = encode i ++ rest

/-- When the bytes that have arrived decode to a command and no reset is asserted, a step is that command, with its frame
taken from the bytes. -/
def Obligations.StepRunsDecodedCommand : Prop :=
  ∀ (s : State) (i : Instr) (rest : Bytes), s.resetPin = false → decodeFrame s.rx = .command i rest →
    step s = exec i { s with rx := rest }

/-- R300: until all 12 + PLEN bytes of a frame have arrived, the engine waits, changes no state and produces no response;
PLEN is the big-endian value of bytes 4..11. -/
def Obligations.IncompleteFrameWaits : Prop :=
  ∀ s : State, s.resetPin = false →
    (s.rx.length < 12 ∨ s.rx.length < 12 + beNat ((s.rx.drop 4).take 8)) → step s = .next s

/-- R301, R711: a step on a complete frame returns exactly one response, takes exactly the frame's 12 + PLEN bytes, and
never stops. -/
def Obligations.OneResponsePerFrame : Prop :=
  ∀ s : State, s.resetPin = false → 12 ≤ s.rx.length → 12 + beNat ((s.rx.drop 4).take 8) ≤ s.rx.length →
    ∃ t r, step s = .next t ∧ t.tx = s.tx ++ [r] ∧ t.rx = s.rx.drop (12 + beNat ((s.rx.drop 4).take 8)) ∧
      (r.status ≠ 0 → r.data = [])

/-- R305, R603: a complete frame whose command word is illegal is taken whole and refused: 0x00000102 for an unassigned
opcode, 0x00000202 for non-zero RSV, 0x00000302 for a non-zero unused field; nothing else changes. -/
def Obligations.IllegalCommandRefused : Prop :=
  ∀ (s : State) (cmd : Word) (p rest : Bytes), s.resetPin = false → p.length < 2 ^ 64 →
    s.rx = u32be cmd ++ u64be p.length ++ p ++ rest →
    (decodeWord cmd p = .error .unassignedOpcode → step s = .next ({ s with rx := rest }.refusedWith 0x00000102)) ∧
    (decodeWord cmd p = .error .reservedNonzero → step s = .next ({ s with rx := rest }.refusedWith 0x00000202)) ∧
    (decodeWord cmd p = .error .unusedNonzero → step s = .next ({ s with rx := rest }.refusedWith 0x00000302))

/-- R210: a queue of complete frames, legal or not, is executed one command at a time, to completion, in the order the frames
arrived: the state after n commands is the fold of the command rules over them. -/
def Obligations.QueuedFramesRunInOrder : Prop :=
  ∀ (s : State) (fs : List (Word × Bytes)) (rest : Bytes), s.resetPin = false → (∀ f ∈ fs, f.2.length < 2 ^ 64) →
    s.rx = fs.flatMap frameBytes ++ rest →
    runSteps fs.length s = runFrames fs { s with rx := rest }

/-- R630: bytes that arrive while a complete frame is queued change nothing of that frame's command; they stay queued. -/
def Obligations.LaterBytesDoNotMatter : Prop :=
  ∀ (s t : State) (bs : Bytes), s.resetPin = false → decodeFrame s.rx ≠ .waiting → step s = .next t →
    step (s.hostSend bs) = .next (t.hostSend bs)

/-! ## Responses and refusals -/

/-- R601–R607: the status word of every cause: bits 31:16 zero, DETAIL in bits 15:8, STATUS in bits 7:0. -/
def Obligations.StatusWordsOfCauses : Prop :=
  okWord = 0x00000000 ∧
  Cause.unassignedOpcode.word = 0x00000102 ∧ Cause.reservedNonzero.word = 0x00000202 ∧
  Cause.unusedNonzero.word = 0x00000302 ∧ Cause.badTarget.word = 0x00000103 ∧ Cause.badSource.word = 0x00000203 ∧
  Cause.targetInvalid.word = 0x00000104 ∧ Cause.sourceInvalid.word = 0x00000204 ∧ Cause.blockLength.word = 0x00000101 ∧
  Cause.digestLength.word = 0x00000201 ∧ Cause.rotationAmount.word = 0x00000301 ∧ Cause.payloadShape.word = 0x00000401 ∧
  Cause.forgeLength.word = 0x00000501 ∧ Cause.lengthOver.word = 0x00000105 ∧ Cause.countOver.word = 0x00000205 ∧
  Cause.extendedOver.word = 0x00000305

/-- R301: on the wire a response is its STATUS word, its RLEN and its data, each number big-endian. -/
def Obligations.ResponseFrameLayout : Prop :=
  ∀ r : Response, r.data.length < 2 ^ 64 →
    r.frame.length = 12 + r.data.length ∧ beNat (r.frame.take 4) = r.status.toNat ∧
    beNat ((r.frame.drop 4).take 8) = r.data.length ∧ r.frame.drop 12 = r.data

/-- R608, R301: every command in every state answers with a next state, in which there is exactly one more response, and the
bytes that have arrived, the reset line and the number of contexts are as before. -/
def Obligations.EveryCommandAnswersOnce : Prop :=
  ∀ (i : Instr) (s : State), ∃ t r, exec i s = .next t ∧ t.tx = s.tx ++ [r] ∧ t.rx = s.rx ∧
    t.resetPin = s.resetPin ∧ t.resets = s.resets ∧ t.ctxs.length = s.ctxs.length

/-- R610: a command whose response is not OK (STATUS, bits 7:0, is not 0) has written no state, and its response has no data;
so has a step, illegal command words included, but for the frame it took from the bytes that have arrived. -/
def Obligations.RefusedCommandWritesNothing : Prop :=
  (∀ (i : Instr) (s t : State) (r : Response), exec i s = .next t → t.tx = s.tx ++ [r] → r.status.toNat % 256 ≠ 0 →
    r.data = [] ∧ t = { s with tx := s.tx ++ [r] }) ∧
  (∀ (s t : State) (r : Response), step s = .next t → t.tx = s.tx ++ [r] → r.status.toNat % 256 ≠ 0 →
    r.data = [] ∧ t = { s with tx := s.tx ++ [r], rx := t.rx })

/-- R107, R207: only CTX_INIT, CTX_ABSORB and CTX_CLONE change state: each of the other twelve commands leaves the context
file, and everything but its response, as it was. -/
def Obligations.OtherCommandsChangeNoState : Prop :=
  ∀ (i : Instr) (s t : State),
    (∀ ca p, i ≠ .ctxInit ca p) → (∀ ca p, i ≠ .ctxAbsorb ca p) → (∀ ca cb p, i ≠ .ctxClone ca cb p) →
    exec i s = .next t → ∃ r, t = { s with tx := s.tx ++ [r] }

/-- R207: the commands other than CTX_INIT, CTX_ABSORB and CTX_CLONE change no state and, issued twice, answer the same
twice; CTX_INIT and CTX_CLONE are idempotent; CTX_ABSORB is not. -/
def Obligations.RepeatedCommands : Prop :=
  (∀ (i : Instr) (s : State), i.isPure = true → ∃ r, exec i s = .next (s.emit r) ∧
    exec i (s.emit r) = .next ((s.emit r).emit r)) ∧
  (∀ (s : State) (ca : CtxIdx) (p : Bytes), ∃ t u, exec (.ctxInit ca p) s = .next t ∧ exec (.ctxInit ca p) t = .next u ∧
    u.ctxs = t.ctxs) ∧
  (∀ (s : State) (ca cb : CtxIdx) (p : Bytes), ∃ t u, exec (.ctxClone ca cb p) s = .next t ∧
    exec (.ctxClone ca cb p) t = .next u ∧ u.ctxs = t.ctxs) ∧
  (∃ (s t u : State) (ca : CtxIdx) (p : Bytes), exec (.ctxAbsorb ca p) s = .next t ∧ exec (.ctxAbsorb ca p) t = .next u ∧
    u.ctxs ≠ t.ctxs)

/-- R106: a command writes no context but its target: every other context is unchanged. -/
def Obligations.OtherContextsUnchanged : Prop :=
  ∀ (i : Instr) (s t : State) (k : Nat), exec i s = .next t → k ≠ i.fieldCA.toNat → t.ctxs[k]? = s.ctxs[k]?

/-- R609, R111: no command reads an earlier response: with other responses returned before, a command gives the same response
and writes the same state. -/
def Obligations.ResponsesAreNotRead : Prop :=
  ∀ (i : Instr) (s : State) (T : List Response), ∃ t r, exec i s = .next t ∧ t.tx = s.tx ++ [r] ∧
    exec i { s with tx := T } = .next { t with tx := T ++ [r] }

/-- R311: the RLEN of every command that answers OK. -/
def Obligations.ResponseLengths : Prop :=
  ∀ (i : Instr) (s t : State) (r : Response), exec i s = .next t → t.tx = s.tx ++ [r] → r.status = 0 →
    match i with
    | .add32 _ => r.data.length = 4
    | .rotr32 _ => r.data.length = 4
    | .expand _ => r.data.length = 256
    | .step _ => r.data.length = 32
    | .compress _ => r.data.length = 32
    | .pad _ => 9 ≤ r.data.length ∧ r.data.length ≤ 72
    | .hash _ => r.data.length = 32
    | .ctxInit _ _ => r.data.length = 0
    | .ctxAbsorb _ _ => r.data.length = 0
    | .ctxFinal _ _ => r.data.length = 32
    | .ctxClone _ _ _ => r.data.length = 0
    | .s2d _ => r.data.length = 32
    | .d2s _ => r.data.length = 32
    | .extend _ => r.data.length = 32
    | .forge p => r.data.length = p.length - 8 + padlen (be64 p 0)

/-! ## Word operations -/

/-- R401, R403: ADD32 answers the sum of its terms modulo 2^32; a payload that is empty or no multiple of 4 is refused with
INVALID_INPUT 0x04, and a longer one than MAXLEN with LENGTH_RANGE 0x01. -/
def Obligations.Add32Result : Prop :=
  ∀ s : State,
    (∀ p : Bytes, (Instr.add32 p).cmdWord = 0x00000001) ∧
    (∀ ts : List Word, ts ≠ [] → 4 * ts.length ≤ 2 ^ 61 - 1 →
      exec (.add32 (ts.flatMap u32be)) s = .next (s.answered (u32be (BitVec.ofNat 32 (ts.map BitVec.toNat).sum)))) ∧
    (∀ p : Bytes, p.length = 0 ∨ p.length % 4 ≠ 0 → exec (.add32 p) s = .next (s.refusedWith 0x00000401)) ∧
    (∀ p : Bytes, p.length % 4 = 0 → 2 ^ 61 - 1 < p.length → exec (.add32 p) s = .next (s.refusedWith 0x00000105))

/-- R401: the sum over the natural numbers, reduced modulo 2^32; no operand order affects it. -/
def Obligations.AddIgnoresOrder : Prop :=
  ∀ ts us : List Word, (add32 ts).toNat = (ts.map BitVec.toNat).sum % 2 ^ 32 ∧ (ts.Perm us → add32 ts = add32 us)

/-- R402, R404: ROTR32 answers the word whose bit i is bit (i + n) mod 32 of x; a payload that is not 8 bytes is refused with
INVALID_INPUT 0x04, and an amount outside (0,32) with INVALID_INPUT 0x03. -/
def Obligations.Rotr32Result : Prop :=
  ∀ s : State,
    (∀ p : Bytes, (Instr.rotr32 p).cmdWord = 0x00000002) ∧
    (∀ x n : Word, 0 < n.toNat → n.toNat < 32 →
      ∃ y : Word, y = (x >>> n.toNat) ||| (x <<< (32 - n.toNat)) ∧
        (∀ i, i < 32 → y.getLsbD i = x.getLsbD ((i + n.toNat) % 32)) ∧
        exec (.rotr32 (u32be x ++ u32be n)) s = .next (s.answered (u32be y))) ∧
    (∀ p : Bytes, p.length ≠ 8 → exec (.rotr32 p) s = .next (s.refusedWith 0x00000401)) ∧
    (∀ x n : Word, n.toNat = 0 ∨ 32 ≤ n.toNat → exec (.rotr32 (u32be x ++ u32be n)) s = .next (s.refusedWith 0x00000301))

/-- R405: the right shift is floor(x / 2^n), bits 31..32−n of it 0. -/
def Obligations.ShiftIsFloorDivision : Prop :=
  ∀ (x : Word) (n : Nat), 0 < n → n < 32 →
    (shr x n).toNat = x.toNat / 2 ^ n ∧ ∀ i, 32 - n ≤ i → (shr x n).getLsbD i = false

/-! ## The datapath -/

/-- R420, R421, R440, R441: the four sigma functions, by Lean's own rotation and shift. -/
def Obligations.SigmaFunctions : Prop :=
  ∀ x : Word,
    smallSigma0 x = x.rotateRight 7 ^^^ x.rotateRight 18 ^^^ (x >>> 3) ∧
    smallSigma1 x = x.rotateRight 17 ^^^ x.rotateRight 19 ^^^ (x >>> 10) ∧
    bigSigma1 x = x.rotateRight 6 ^^^ x.rotateRight 11 ^^^ x.rotateRight 25 ∧
    bigSigma0 x = x.rotateRight 2 ^^^ x.rotateRight 13 ^^^ x.rotateRight 22

/-- R442, R443: ch and maj as formulas; bit by bit, ch chooses and maj is the majority. -/
def Obligations.ChooseAndMajority : Prop :=
  ∀ (x y z : Word) (i : Nat), i < 32 →
    ch x y z = (x &&& y) ^^^ (~~~x &&& z) ∧ maj x y z = (x &&& y) ^^^ (x &&& z) ^^^ (y &&& z) ∧
    (ch x y z).getLsbD i = (if x.getLsbD i = true then y.getLsbD i else z.getLsbD i) ∧
    (maj x y z).getLsbD i = decide (2 ≤ (x.getLsbD i).toNat + (y.getLsbD i).toNat + (z.getLsbD i).toNat)

/-- R110, R461: the constant tables from their definitions: IV[j] is the first 32 bits of the fractional part of the square
root of the j-th prime, K[i] those of the cube root (`c` is the root's integer part). -/
def Obligations.ConstantTables : Prop :=
  K.length = 64 ∧
  (∀ j, j < 8 → ∃ c, c < 5 ∧ let r := c * 2 ^ 32 + (IV.words.getD j 0).toNat
    r ^ 2 ≤ [2, 3, 5, 7, 11, 13, 17, 19].getD j 0 * 2 ^ 64 ∧ [2, 3, 5, 7, 11, 13, 17, 19].getD j 0 * 2 ^ 64 < (r + 1) ^ 2) ∧
  (∀ i, i < 64 → ∃ c, c < 7 ∧ let r := c * 2 ^ 32 + (K.getD i 0).toNat
    r ^ 3 ≤ (primesUpTo 312).getD i 0 * 2 ^ 96 ∧ (primesUpTo 312).getD i 0 * 2 ^ 96 < (r + 1) ^ 3)

/-- R422, R423: EXPAND answers the 64 words of the schedule: words 0..15 are the block's, and each later word is the sum of four
earlier ones; a payload that is not 64 bytes is refused with INVALID_INPUT 0x01. -/
def Obligations.ExpandResult : Prop :=
  ∀ s : State,
    (∀ p : Bytes, (Instr.expand p).cmdWord = 0x00000010) ∧
    (∀ block : Bytes, block.length = 64 → ∃ W : List Word, W.length = 64 ∧
      (∀ i, i < 16 → u32be (W.getD i 0) = (block.drop (4 * i)).take 4) ∧
      (∀ i, 16 ≤ i → i < 64 → W.getD i 0 =
        W.getD (i - 16) 0 + smallSigma0 (W.getD (i - 15) 0) + W.getD (i - 7) 0 + smallSigma1 (W.getD (i - 2) 0)) ∧
      exec (.expand block) s = .next (s.answered (W.flatMap u32be))) ∧
    (∀ p : Bytes, p.length ≠ 64 → exec (.expand p) s = .next (s.refusedWith 0x00000101))

/-- R444, R446: STEP answers one round, all eight outputs computed from the inputs; a payload that is not 40 bytes is refused
with INVALID_INPUT 0x04. -/
def Obligations.StepResult : Prop :=
  ∀ s : State,
    (∀ p : Bytes, (Instr.step p).cmdWord = 0x00000011) ∧
    (∀ a b c d e f g h k w t1 t2 : Word,
      t1 = h + bigSigma1 e + ch e f g + k + w → t2 = bigSigma0 a + maj a b c →
      exec (.step ([a, b, c, d, e, f, g, h, k, w].flatMap u32be)) s =
        .next (s.answered ([t1 + t2, a, b, c, d + t1, e, f, g].flatMap u32be))) ∧
    (∀ p : Bytes, p.length ≠ 40 → exec (.step p) s = .next (s.refusedWith 0x00000401))

/-- R462, R464: COMPRESS answers the state after 64 rounds, round i with K[i] and W[i], added word by word to the state it
started from; a payload shorter than 32 bytes is refused with INVALID_INPUT 0x04, any other that is not 96 with 0x01. -/
def Obligations.CompressResult : Prop :=
  ∀ s : State,
    (∀ p : Bytes, (Instr.compress p).cmdWord = 0x00000012) ∧
    (∀ (S : Chain) (block : Bytes), block.length = 64 → ∃ V : Nat → Chain, V 0 = S ∧
      (∀ i, i < 64 → V (i + 1) = roundStep (V i) (K.getD i 0) ((expand block).getD i 0)) ∧
      exec (.compress (S.words.flatMap u32be ++ block)) s =
        .next (s.answered ((List.zipWith (· + ·) S.words (V 64).words).flatMap u32be))) ∧
    (∀ p : Bytes, p.length < 32 → exec (.compress p) s = .next (s.refusedWith 0x00000401)) ∧
    (∀ p : Bytes, 32 ≤ p.length → p.length ≠ 96 → exec (.compress p) s = .next (s.refusedWith 0x00000101))

/-- R465: feeding a concatenation is feeding its parts one after the other. -/
def Obligations.FeedChains : Prop :=
  ∀ (S : Chain) (X Y : Bytes), X.length % 64 = 0 → Y.length % 64 = 0 → feed S (X ++ Y) = feed (feed S X) Y

/-! ## Padding -/

/-- R480, R483: PAD answers 0x80, the minimum number of zero bytes that brings the message to a multiple of 64 with the length
field, and the bit length in 8 bytes; a payload that is not 8 bytes is refused with INVALID_INPUT 0x04, and a length above
2^61 − 1 with LENGTH_RANGE 0x01. -/
def Obligations.PadResult : Prop :=
  ∀ s : State,
    (∀ p : Bytes, (Instr.pad p).cmdWord = 0x00000013) ∧
    (∀ n : Nat, n ≤ 2 ^ 61 - 1 → ∃ z : Nat, (z : Int) = (55 - (n : Int)) % 64 ∧ (n + 1 + z + 8) % 64 = 0 ∧
      (∀ y, (n + 1 + y + 8) % 64 = 0 → z ≤ y) ∧
      exec (.pad (u64be n)) s = .next (s.answered ([0x80] ++ List.replicate z 0 ++ u64be (8 * n)))) ∧
    (∀ p : Bytes, p.length ≠ 8 → exec (.pad p) s = .next (s.refusedWith 0x00000401)) ∧
    (∀ n : Nat, 2 ^ 61 ≤ n → n < 2 ^ 64 → exec (.pad (u64be n)) s = .next (s.refusedWith 0x00000105))

/-- R481: the padding law. -/
def Obligations.PaddingLaw : Prop :=
  ∀ n : Nat, n ≤ 2 ^ 61 - 1 →
    (pad n).length = padlen n ∧ (padlen n : Int) = 9 + (55 - (n : Int)) % 64 ∧ 9 ≤ padlen n ∧ padlen n ≤ 72 ∧ (n + padlen n) % 64 = 0 ∧
    be64 (pad n) (padlen n - 8) = 8 * n ∧ (pad n).head? = some 0x80 ∧
    (∀ i, 0 < i → i < padlen n - 8 → (pad n)[i]? = some 0) ∧
    (n % 64 ≤ 55 → padlen n = 64 - n % 64) ∧ (56 ≤ n % 64 → padlen n = 128 - n % 64)

/-! ## Streaming contexts and the one-shot hash -/

/-- R500: CTX_INIT makes the target a fresh context, whatever it held, and answers OK; BUF is not written. -/
def Obligations.CtxInitResult : Prop :=
  ∀ (s : State) (ca : CtxIdx),
    (∀ p : Bytes, (Instr.ctxInit ca p).cmdWord.toNat = 0x00000020 + ca.toNat * 2 ^ 8) ∧
    (∀ x, s.ctxs[ca.toNat]? = some x → exec (.ctxInit ca []) s =
      .next ({ s with ctxs := s.ctxs.set ca.toNat { valid := true, h := IV, buf := x.buf, cnt := 0 } }.answered [])) ∧
    (∀ p : Bytes, s.ctxs.length ≤ ca.toNat → exec (.ctxInit ca p) s = .next (s.refusedWith 0x00000103)) ∧
    (∀ p : Bytes, ca.toNat < s.ctxs.length → p ≠ [] → exec (.ctxInit ca p) s = .next (s.refusedWith 0x00000401)) ∧
    (∀ (cb : CtxIdx) (p : Bytes), cb ≠ 0 →
      decodeWord ((0 : BitVec 16) ++ cb ++ ca ++ (0x20 : Byte)) p = .error .unusedNonzero)

/-- R501: absorbing one byte. -/
def Obligations.AbsorbByteRule : Prop :=
  ∀ (x : Context) (b : Byte),
    (x.absorbByte b).buf.toList = x.buf.toList.set (x.cnt.toNat % 64) b ∧ (x.absorbByte b).cnt = x.cnt + 1 ∧
    (x.absorbByte b).valid = x.valid ∧
    ((x.cnt + 1).toNat % 64 = 0 → (x.absorbByte b).h = compress x.h (x.buf.toList.set (x.cnt.toNat % 64) b)) ∧
    ((x.cnt + 1).toNat % 64 ≠ 0 → (x.absorbByte b).h = x.h)

/-- R502: CTX_ABSORB absorbs its bytes one after another into the target and answers OK; its refusals in their order. -/
def Obligations.CtxAbsorbResult : Prop :=
  ∀ (s : State) (ca : CtxIdx) (p : Bytes),
    (Instr.ctxAbsorb ca p).cmdWord.toNat = 0x00000021 + ca.toNat * 2 ^ 8 ∧
    (∀ x, s.ctxs[ca.toNat]? = some x → x.valid = true → x.cnt.toNat + p.length ≤ 2 ^ 61 - 1 → exec (.ctxAbsorb ca p) s =
      .next ({ s with ctxs := s.ctxs.set ca.toNat (p.foldl Context.absorbByte x) }.answered [])) ∧
    (s.ctxs.length ≤ ca.toNat → exec (.ctxAbsorb ca p) s = .next (s.refusedWith 0x00000103)) ∧
    (∀ x, s.ctxs[ca.toNat]? = some x → x.valid = false → exec (.ctxAbsorb ca p) s = .next (s.refusedWith 0x00000104)) ∧
    (∀ x, s.ctxs[ca.toNat]? = some x → x.valid = true → 2 ^ 61 - 1 < p.length →
      exec (.ctxAbsorb ca p) s = .next (s.refusedWith 0x00000105)) ∧
    (∀ x, s.ctxs[ca.toNat]? = some x → x.valid = true → p.length ≤ 2 ^ 61 - 1 → 2 ^ 61 - 1 < x.cnt.toNat + p.length →
      exec (.ctxAbsorb ca p) s = .next (s.refusedWith 0x00000205)) ∧
    (∀ cb : CtxIdx, cb ≠ 0 → decodeWord ((0 : BitVec 16) ++ cb ++ ca ++ (0x21 : Byte)) p = .error .unusedNonzero)

/-- R105: over a whole accepted absorb CNT grows by the number of bytes and never wraps. -/
def Obligations.AbsorbCountsBytes : Prop :=
  ∀ (x : Context) (p : Bytes), x.cnt.toNat + p.length ≤ 2 ^ 61 - 1 →
    (p.foldl Context.absorbByte x).cnt.toNat = x.cnt.toNat + p.length

/-- R503, R504: CTX_FINAL answers the digest of the running State fed with BUF[0..fill) and the padding of CNT, which together are
one block or two, and writes no state; its refusals in their order. -/
def Obligations.CtxFinalResult : Prop :=
  ∀ (s : State) (ca : CtxIdx) (p : Bytes),
    (Instr.ctxFinal ca p).cmdWord.toNat = 0x00000022 + ca.toNat * 2 ^ 8 ∧
    (∀ x, s.ctxs[ca.toNat]? = some x → x.valid = true → exec (.ctxFinal ca []) s =
      .next (s.answered (stateToDigest (feed x.h (x.buf.toList.take (x.cnt.toNat % 64) ++ pad x.cnt.toNat))))) ∧
    (∀ x : Context, (x.cnt.toNat % 64 ≤ 55 → (x.buf.toList.take (x.cnt.toNat % 64) ++ pad x.cnt.toNat).length = 64) ∧
      (56 ≤ x.cnt.toNat % 64 → (x.buf.toList.take (x.cnt.toNat % 64) ++ pad x.cnt.toNat).length = 128)) ∧
    (s.ctxs.length ≤ ca.toNat → exec (.ctxFinal ca p) s = .next (s.refusedWith 0x00000103)) ∧
    (∀ x, s.ctxs[ca.toNat]? = some x → x.valid = false → exec (.ctxFinal ca p) s = .next (s.refusedWith 0x00000104)) ∧
    (∀ x, s.ctxs[ca.toNat]? = some x → x.valid = true → p ≠ [] →
      exec (.ctxFinal ca p) s = .next (s.refusedWith 0x00000401)) ∧
    (∀ cb : CtxIdx, cb ≠ 0 → decodeWord ((0 : BitVec 16) ++ cb ++ ca ++ (0x22 : Byte)) p = .error .unusedNonzero)

/-- R506: CTX_CLONE copies every field of a valid source to the destination and answers OK; its refusals in their order. -/
def Obligations.CtxCloneResult : Prop :=
  ∀ (s : State) (ca cb : CtxIdx) (p : Bytes),
    (Instr.ctxClone ca cb p).cmdWord.toNat = 0x00000023 + cb.toNat * 2 ^ 12 + ca.toNat * 2 ^ 8 ∧
    (∀ x, ca.toNat < s.ctxs.length → s.ctxs[cb.toNat]? = some x → x.valid = true →
      exec (.ctxClone ca cb []) s = .next ({ s with ctxs := s.ctxs.set ca.toNat x }.answered [])) ∧
    (s.ctxs.length ≤ ca.toNat → exec (.ctxClone ca cb p) s = .next (s.refusedWith 0x00000103)) ∧
    (ca.toNat < s.ctxs.length → s.ctxs.length ≤ cb.toNat → exec (.ctxClone ca cb p) s = .next (s.refusedWith 0x00000203)) ∧
    (∀ x, ca.toNat < s.ctxs.length → s.ctxs[cb.toNat]? = some x → x.valid = false →
      exec (.ctxClone ca cb p) s = .next (s.refusedWith 0x00000204)) ∧
    (∀ x, ca.toNat < s.ctxs.length → s.ctxs[cb.toNat]? = some x → x.valid = true → p ≠ [] →
      exec (.ctxClone ca cb p) s = .next (s.refusedWith 0x00000401))

/-- R508: HASH answers the digest of IV fed with the message and its padding; a message longer than MAXLEN is refused with
LENGTH_RANGE 0x01. -/
def Obligations.HashResult : Prop :=
  ∀ (s : State) (m : Bytes),
    (Instr.hash m).cmdWord = 0x00000014 ∧
    (m.length ≤ 2 ^ 61 - 1 → exec (.hash m) s = .next (s.answered (stateToDigest (feed IV (m ++ pad m.length))))) ∧
    (2 ^ 61 - 1 < m.length → exec (.hash m) s = .next (s.refusedWith 0x00000105))

/-- R505: snapshot non-destructiveness.  Inserting a CTX_FINAL anywhere in a sequence of commands adds its own response and
changes no other response and no context. -/
def Obligations.SnapshotIsNonDestructive : Prop :=
  ∀ (s t : State) (xs ys : List Instr) (ca : CtxIdx) (p : Bytes), runAll (xs ++ ys) s = .next t →
    ∃ u r as bs, runAll (xs ++ [.ctxFinal ca p] ++ ys) s = .next u ∧ u.ctxs = t.ctxs ∧ u.rx = t.rx ∧
      as.length = xs.length ∧ bs.length = ys.length ∧ t.tx = s.tx ++ as ++ bs ∧ u.tx = s.tx ++ as ++ [r] ++ bs

/-- R507: chunking invariance.  However a message is split into chunks, CTX_INIT and absorbing the chunks leave the context
file as CTX_INIT and absorbing the whole message do, and CTX_FINAL then answers the same. -/
def Obligations.ChunkingInvariance : Prop :=
  ∀ (s : State) (c : CtxIdx) (ms : List Bytes), c.toNat < s.ctxs.length → ms.flatten.length ≤ 2 ^ 61 - 1 →
    ∃ t u, runAll (.ctxInit c [] :: ms.map (.ctxAbsorb c ·)) s = .next t ∧
      runAll [.ctxInit c [], .ctxAbsorb c ms.flatten] s = .next u ∧ t.ctxs = u.ctxs ∧
      ∃ D, exec (.ctxFinal c []) t = .next (t.answered D) ∧ exec (.ctxFinal c []) u = .next (u.answered D)

/-- R509: streaming equals one-shot, through the context that the absorb leaves. -/
def Obligations.StreamingEqualsOneShot : Prop :=
  ∀ (s : State) (c : CtxIdx) (m : Bytes), c.toNat < s.ctxs.length → m.length ≤ 2 ^ 61 - 1 →
    ∃ t x D, runAll [.ctxInit c [], .ctxAbsorb c m] s = .next t ∧ t.ctxs[c.toNat]? = some x ∧
      x.h = feed IV (m.take (64 * (m.length / 64))) ∧ x.cnt.toNat = m.length ∧
      x.buf.toList.take (m.length % 64) = m.drop (64 * (m.length / 64)) ∧
      exec (.ctxFinal c []) t = .next (t.answered D) ∧ exec (.hash m) s = .next (s.answered D)

/-! ## State codec -/

/-- R542, R544: S2D answers the digest of its State operand, which on the wire is the payload unchanged; a payload that is not
32 bytes is refused with INVALID_INPUT 0x04. -/
def Obligations.S2dResult : Prop :=
  ∀ s : State,
    (∀ p : Bytes, (Instr.s2d p).cmdWord = 0x00000030) ∧
    (∀ S : Chain, exec (.s2d (S.words.flatMap u32be)) s = .next (s.answered (stateToDigest S))) ∧
    (∀ p : Bytes, p.length = 32 → exec (.s2d p) s = .next (s.answered p)) ∧
    (∀ p : Bytes, p.length ≠ 32 → exec (.s2d p) s = .next (s.refusedWith 0x00000401))

/-- R543, R544: D2S answers the words of the State its digest spells, on the wire the payload unchanged; a payload that is not 32
bytes is refused with INVALID_INPUT 0x02. -/
def Obligations.D2sResult : Prop :=
  ∀ s : State,
    (∀ p : Bytes, (Instr.d2s p).cmdWord = 0x00000031) ∧
    (∀ p : Bytes, p.length = 32 → ∃ S, digestToState p = .ok S ∧ S.words.flatMap u32be = p ∧
      exec (.d2s p) s = .next (s.answered (S.words.flatMap u32be))) ∧
    (∀ p : Bytes, p.length ≠ 32 → exec (.d2s p) s = .next (s.refusedWith 0x00000201))

/-- R540, R541, R544: what stateToDigest and digestToState are; they undo each other; any length but 32 is an error; S2D and D2S
return a payload of 32 bytes unchanged. -/
def Obligations.CodecRoundTrip : Prop :=
  (∀ S : Chain, stateToDigest S = u32be S.a ++ u32be S.b ++ u32be S.c ++ u32be S.d ++ u32be S.e ++ u32be S.f ++ u32be S.g ++
    u32be S.h) ∧
  (∀ S : Chain, digestToState (stateToDigest S) = .ok S) ∧
  (∀ d : Bytes, d.length = 32 →
    digestToState d = .ok ⟨be32 d 0, be32 d 4, be32 d 8, be32 d 12, be32 d 16, be32 d 20, be32 d 24, be32 d 28⟩) ∧
  (∀ (d : Bytes) (S : Chain), digestToState d = .ok S → stateToDigest S = d) ∧
  (∀ d : Bytes, d.length ≠ 32 → digestToState d = .error .digestLength) ∧
  (∀ (s : State) (p : Bytes), p.length = 32 →
    exec (.s2d p) s = .next (s.answered p) ∧ exec (.d2s p) s = .next (s.answered p))

/-! ## Length extension -/

/-- R561, R562: EXTEND answers the digest of the State that G spells fed with the suffix and the padding of the extended length;
its refusals in their order. -/
def Obligations.ExtendResult : Prop :=
  ∀ (s : State) (G : Bytes) (S : Chain) (L : Nat) (suffix : Bytes), digestToState G = .ok S → L < 2 ^ 64 →
    (∀ p : Bytes, (Instr.extend p).cmdWord = 0x00000040) ∧
    (L ≤ 2 ^ 61 - 1 → L + padlen L + suffix.length ≤ 2 ^ 61 - 1 →
      (suffix ++ pad (L + padlen L + suffix.length)).length % 64 = 0 ∧
      exec (.extend (G ++ u64be L ++ suffix)) s =
        .next (s.answered (stateToDigest (feed S (suffix ++ pad (L + padlen L + suffix.length)))))) ∧
    (∀ p : Bytes, p.length < 40 → exec (.extend p) s = .next (s.refusedWith 0x00000401)) ∧
    (∀ p : Bytes, 2 ^ 61 - 1 < p.length → exec (.extend p) s = .next (s.refusedWith 0x00000105)) ∧
    (2 ^ 61 - 1 < L → exec (.extend (G ++ u64be L ++ suffix)) s = .next (s.refusedWith 0x00000105)) ∧
    (L ≤ 2 ^ 61 - 1 → 40 + suffix.length ≤ 2 ^ 61 - 1 → 2 ^ 61 - 1 < L + padlen L + suffix.length →
      exec (.extend (G ++ u64be L ++ suffix)) s = .next (s.refusedWith 0x00000305))

/-- R563, R564: FORGE answers the original, its padding and the suffix; its refusals in their order. -/
def Obligations.ForgeResult : Prop :=
  ∀ s : State,
    (∀ p : Bytes, (Instr.forge p).cmdWord = 0x00000041) ∧
    (∀ original suffix : Bytes, 8 + original.length + suffix.length ≤ 2 ^ 61 - 1 →
      exec (.forge (u64be original.length ++ original ++ suffix)) s =
        .next (s.answered (original ++ pad original.length ++ suffix))) ∧
    (∀ p : Bytes, p.length < 8 → exec (.forge p) s = .next (s.refusedWith 0x00000401)) ∧
    (∀ (L : Nat) (q : Bytes), L < 2 ^ 64 → q.length < L → exec (.forge (u64be L ++ q)) s = .next (s.refusedWith 0x00000501)) ∧
    (∀ (L : Nat) (q : Bytes), L ≤ q.length → q.length < 2 ^ 64 → 2 ^ 61 - 1 < 8 + q.length →
      exec (.forge (u64be L ++ q)) s = .next (s.refusedWith 0x00000105))

/-- R565: length-extension correctness.  From the digest and the length of a message alone, EXTEND answers the digest that HASH
answers for the message FORGE builds. -/
def Obligations.LengthExtensionIsCorrect : Prop :=
  ∀ (s : State) (M X : Bytes), M.length + padlen M.length + X.length ≤ 2 ^ 61 - 1 →
    ∃ D E F, exec (.hash M) s = .next (s.answered D) ∧
      exec (.forge (u64be M.length ++ M ++ X)) s = .next (s.answered F) ∧
      exec (.hash F) s = .next (s.answered E) ∧
      exec (.extend (D ++ u64be M.length ++ X)) s = .next (s.answered E)

/-- R566: when the suffix and its padding fill one block, COMPRESS from the State that G spells answers as EXTEND does. -/
def Obligations.ExtendThroughCompress : Prop :=
  ∀ (s : State) (G suffix : Bytes) (L E : Nat), G.length = 32 → L ≤ 2 ^ 61 - 1 → E = L + padlen L + suffix.length →
    E ≤ 2 ^ 61 - 1 → suffix.length + padlen E = 64 →
    ∃ D, exec (.extend (G ++ u64be L ++ suffix)) s = .next (s.answered D) ∧
      exec (.compress (G ++ suffix ++ pad E)) s = .next (s.answered D)

/-! ## Reset, invariants and isolation -/

/-- R114, R701: after reset, for every number of contexts, each of them is invalid, and the engine waits for a command frame. -/
def Obligations.ResetLeavesAllInvalid : Prop :=
  ∀ n : Nat, (State.resetOf n).ctxs.length = n ∧ (∀ x ∈ (State.resetOf n).ctxs, x.valid = false) ∧
    step (State.resetOf n) = .next (State.resetOf n)

/-- R700: a step with reset asserted makes every context invalid and discards every queued and partly received frame, whatever
was queued; the command abandoned returns no response (no response is new); with reset released the engine then waits for a
frame. -/
def Obligations.ResetDiscardsEverything : Prop :=
  ∀ s : State, s.resetPin = true → ∃ t, step s = .next t ∧ t.ctxs.length = s.ctxs.length ∧
    (∀ x ∈ t.ctxs, x.valid = false) ∧ t.rx = [] ∧ (∀ r ∈ t.tx, r ∈ s.tx) ∧
    step { t with resetPin := false } = .next { t with resetPin := false }

/-- R102, R605, R702: no command makes use of a context before CTX_INIT or CTX_CLONE has made it valid: where no context is valid,
CTX_ABSORB and CTX_FINAL on a context of the file and CTX_CLONE within it are refused with CONTEXT_INVALID. -/
def Obligations.InvalidContextsAreRefused : Prop :=
  ∀ (s : State) (ca cb : CtxIdx) (p : Bytes), (∀ x ∈ s.ctxs, x.valid = false) →
    ca.toNat < s.ctxs.length → cb.toNat < s.ctxs.length →
    exec (.ctxAbsorb ca p) s = .next (s.refusedWith 0x00000104) ∧
    exec (.ctxFinal ca p) s = .next (s.refusedWith 0x00000104) ∧
    exec (.ctxClone ca cb p) s = .next (s.refusedWith 0x00000204)

/-- The invariant holds right after reset, for every NCTX of R7's range and for the machine of the host. -/
def Obligations.InvariantAtReset : Prop :=
  (∀ n : Nat, 2 ≤ n → n ≤ 16 → (State.resetOf n).Inv) ∧ State.reset.Inv

/-- R105, R601, R602, R301: every step keeps the invariant: the number of contexts in range, CNT ≤ MAXLEN in every valid context,
and every response legal. -/
def Obligations.EveryStepKeepsInvariant : Prop :=
  ∀ s t : State, s.Inv → step s = .next t → t.Inv

/-- R104, R102: two states that differ only in stale BUF bytes, or in the contents of invalid contexts, answer every run of
steps alike: what the host observes is the same, and they go on differing only in those. -/
def Obligations.StaleBytesAreUnobservable : Prop :=
  ∀ (k : Nat) (s t s' : State), s.Same t → runSteps k s = .next s' →
    ∃ t', runSteps k t = .next t' ∧ s'.Same t' ∧ t'.observed = s'.observed

/-! ## The assembler -/

/-- R320: the commands its lines stand for, from their operands (the numbers being words of 32 bits, lengths of 64). -/
def Obligations.AssemblerLines : Prop :=
  ∀ (t : Word) (ts : List Word) (x n k w : Word) (S : Chain) (B D G M : Bytes) (L : DWord) (a b : CtxIdx),
    assemble .add32 ((t :: ts).map fun u => .num u.toNat) = some [.add32 ((t :: ts).flatMap u32be)] ∧
    assemble .rotr32 [.num x.toNat, .num n.toNat] = some [.rotr32 (u32be x ++ u32be n)] ∧
    assemble .expand [.bytes B] = some [.expand B] ∧
    assemble .step [.state S, .num k.toNat, .num w.toNat] = some [.step (S.words.flatMap u32be ++ u32be k ++ u32be w)] ∧
    assemble .compress [.state S, .bytes B] = some [.compress (S.words.flatMap u32be ++ B)] ∧
    assemble .pad [.num L.toNat] = some [.pad (u64be L.toNat)] ∧
    assemble .hash [.bytes D] = some [.hash D] ∧
    assemble .ctxInit [.ctx a] = some [.ctxInit a []] ∧
    assemble .ctxAbsorb [.ctx a, .bytes D] = some [.ctxAbsorb a D] ∧
    assemble .ctxFinal [.ctx a] = some [.ctxFinal a []] ∧
    assemble .ctxClone [.ctx a, .ctx b] = some [.ctxClone a b []] ∧
    assemble .s2d [.state S] = some [.s2d (S.words.flatMap u32be)] ∧
    assemble .d2s [.bytes G] = some [.d2s G] ∧
    assemble .extend [.bytes G, .num L.toNat, .bytes D] = some [.extend (G ++ u64be L.toNat ++ D)] ∧
    assemble .forge [.bytes M, .bytes D] = some [.forge (u64be M.length ++ M ++ D)]

/-- R321: the two pseudo-instructions expand to real commands. -/
def Obligations.AssemblerExpandsPseudo : Prop :=
  ∀ (a b : CtxIdx) (d : Bytes),
    assemble .ctxHash [.ctx a, .bytes d] = some [.ctxInit a [], .ctxAbsorb a d, .ctxFinal a []] ∧
    assemble .ctxFork [.ctx a, .ctx b, .bytes d] = some [.ctxClone a b [], .ctxAbsorb a d]

/-! ## Runs -/

/-- R631: whatever the order in which the host sends the frames of a run in pieces, reads responses, and the engine makes steps:
once the run has ended, its observation is one response frame for each command frame and the context file, as the fold of the
command rules gives them.  That unread responses of an earlier run are no part of it is the model's reading (log 20). -/
def Obligations.RunObservationIsTheFold : Prop :=
  ∀ (s : State) (fs : List (Word × Bytes)) (es : List Event) (r : Run),
    s.rx = [] → s.resetPin = false → (∀ f ∈ fs, f.2.length < 2 ^ 64) → Event.reset ∉ es →
    sentBytes es = fs.flatMap frameBytes → (Run.start s).after es = some r → r.ended = true →
    ∃ t rs, runFrames fs s = .next t ∧ t.tx = s.tx ++ rs ∧ rs.length = fs.length ∧
      r.observation = some ⟨rs.map Response.frame, t.ctxs⟩

/-- R631: a run ends: after any events without a reset in which complete frames are sent, as many steps as there are frames
end it; it has not ended while its last frame is incomplete, whatever happens. -/
def Obligations.RunsEnd : Prop :=
  ∀ (s : State) (fs : List (Word × Bytes)) (q : Bytes) (es : List Event) (r : Run),
    s.rx = [] → s.resetPin = false → (∀ f ∈ fs, f.2.length < 2 ^ 64) → Event.reset ∉ es →
    sentBytes es = fs.flatMap frameBytes ++ q → (Run.start s).after es = some r →
    (q = [] → ∃ u, r.after (List.replicate fs.length .step) = some u ∧ u.ended = true) ∧
    (q ≠ [] → decodeFrame q = .waiting → r.ended = false ∧ r.observation = none)
end

