-- ==== Sys2Proof/Laws/Bytes.lean ====
section
/-! SUPPORT. Big-endian reads and writes undo each other (R10, R202), and the laws of slices. -/

namespace Sys2Proof.Machine

@[simp] theorem length_beBytes (k n : Nat) : (beBytes k n).length = k := by
  induction k generalizing n with
  | zero => rfl
  | succ k ih => simp [beBytes, ih]

@[simp] theorem length_u32be (x : Word) : (u32be x).length = 4 := length_beBytes ..
@[simp] theorem length_u64be (n : Nat) : (u64be n).length = 8 := length_beBytes ..
@[simp] theorem length_zeros (n : Nat) : (zeros n).length = n := List.length_replicate

@[simp] theorem length_slice (B : Bytes) (i j : Nat) : (slice B i j).length = min (j - i) (B.length - i) := by
  simp [slice]

@[simp] theorem beNat_nil : beNat [] = 0 := rfl

@[simp] theorem beNat_concat (B : Bytes) (b : Byte) : beNat (B ++ [b]) = beNat B * 256 + b.toNat := by
  simp [beNat]

theorem beNat_lt (B : Bytes) : beNat B < 256 ^ B.length := by
  induction B using List.reverseRecOn with
  | nil => simp
  | append_singleton B b ih =>
    have hb := b.isLt
    simp only [beNat_concat, List.length_append, List.length_singleton, Nat.pow_succ]
    omega

/-- Reading back a big-endian encoding gives the value, modulo what its bytes hold. -/
theorem beNat_beBytes (k n : Nat) : beNat (beBytes k n) = n % 256 ^ k := by
  induction k generalizing n with
  | zero => simp [beBytes, Nat.mod_one]
  | succ k ih =>
    have h : n % 256 ^ (k + 1) = n / 256 % 256 ^ k * 256 + n % 256 := by
      rw [Nat.pow_succ, Nat.mul_comm, Nat.mod_mul]
      omega
    simp [beBytes, ih, h]

/-- Encoding what a byte sequence reads as gives the sequence. -/
theorem beBytes_beNat (B : Bytes) : beBytes B.length (beNat B) = B := by
  induction B using List.reverseRecOn with
  | nil => rfl
  | append_singleton B b ih =>
    have hb := b.isLt
    have hd : (beNat B * 256 + b.toNat) / 256 = beNat B := by omega
    have hm : BitVec.ofNat 8 (beNat B * 256 + b.toNat) = b := by
      apply BitVec.eq_of_toNat_eq
      simp only [BitVec.toNat_ofNat]
      omega
    simp [beBytes, hd, hm, ih]

theorem beNat_u32be (x : Word) : beNat (u32be x) = x.toNat := by
  rw [u32be, beNat_beBytes]
  exact Nat.mod_eq_of_lt (by simpa using x.isLt)

theorem beNat_u64be (n : Nat) (h : n < 2 ^ 64) : beNat (u64be n) = n := by
  rw [u64be, beNat_beBytes]
  exact Nat.mod_eq_of_lt (by simpa using h)

/-- The slice that a middle part of a sequence fills. -/
theorem slice_middle (A B R : Bytes) (i j : Nat) (hi : i = A.length) (hj : j = A.length + B.length) :
    slice (A ++ B ++ R) i j = B := by
  subst hi hj
  simp [slice]

theorem slice_all (B : Bytes) : slice B 0 B.length = B := by simp [slice]

/-- R10: a word written at an offset reads back. -/
theorem be32_middle (A R : Bytes) (x : Word) (i : Nat) (hi : i = A.length) :
    be32 (A ++ u32be x ++ R) i = x := by
  rw [be32, slice_middle A (u32be x) R i _ hi (by simp [hi]), beNat_u32be]
  simp

/-- R10: a 64-bit value written at an offset reads back. -/
theorem be64_middle (A R : Bytes) (n i : Nat) (hi : i = A.length) (h : n < 2 ^ 64) :
    be64 (A ++ u64be n ++ R) i = n := by
  rw [be64, slice_middle A (u64be n) R i _ hi (by simp [hi]), beNat_u64be n h]

/-- R10: writing the word that four bytes read as gives the four bytes. -/
theorem u32be_be32 (B : Bytes) (i : Nat) (h : i + 4 ≤ B.length) : u32be (be32 B i) = slice B i (i + 4) := by
  have hl : (slice B i (i + 4)).length = 4 := by simp; omega
  have hlt := beNat_lt (slice B i (i + 4))
  rw [hl] at hlt
  have hv : (be32 B i).toNat = beNat (slice B i (i + 4)) := by
    simp only [be32, BitVec.toNat_ofNat]
    exact Nat.mod_eq_of_lt (by simpa using hlt)
  have := beBytes_beNat (slice B i (i + 4))
  rw [hl] at this
  rw [u32be, hv, this]

theorem be64_lt (B : Bytes) (i : Nat) : be64 B i < 2 ^ 64 := by
  have h := beNat_lt (slice B i (i + 8))
  have hl : (slice B i (i + 8)).length ≤ 8 := by simp
  calc be64 B i < 256 ^ (slice B i (i + 8)).length := h
    _ ≤ 256 ^ 8 := Nat.pow_le_pow_right (by decide) hl
    _ = 2 ^ 64 := by decide

/-- Writing the 64-bit value that eight bytes read as gives the eight bytes. -/
theorem u64be_be64 (B : Bytes) (i : Nat) (h : i + 8 ≤ B.length) : u64be (be64 B i) = slice B i (i + 8) := by
  have hl : (slice B i (i + 8)).length = 8 := by simp; omega
  have := beBytes_beNat (slice B i (i + 8))
  rwa [hl] at this

/-- Two neighbouring slices join. -/
theorem slice_append_slice (B : Bytes) (i j k : Nat) (hij : i ≤ j) (hjk : j ≤ k) :
    slice B i j ++ slice B j k = slice B i k := by
  unfold slice
  have e : k - i = (j - i) + (k - j) := by omega
  rw [e, List.take_add, List.drop_drop, show i + (j - i) = j by omega]

end Sys2Proof.Machine
end

