-- ==== Sys2Proof/Laws/State.lean ====
section
/-! SUPPORT. One lemma per field per update of State and Context, each true by rfl, so that no proof unfolds a record
update. -/

namespace Sys2Proof.Machine

/-! ### `emit` -/

@[simp] theorem State.emit_ctxs (s : State) (r : Response) : (s.emit r).ctxs = s.ctxs := rfl
@[simp] theorem State.emit_rx (s : State) (r : Response) : (s.emit r).rx = s.rx := rfl
@[simp] theorem State.emit_tx (s : State) (r : Response) : (s.emit r).tx = s.tx ++ [r] := rfl
@[simp] theorem State.emit_resetPin (s : State) (r : Response) : (s.emit r).resetPin = s.resetPin := rfl
@[simp] theorem State.emit_resets (s : State) (r : Response) : (s.emit r).resets = s.resets := rfl
@[simp] theorem State.emit_nctx (s : State) (r : Response) : (s.emit r).nctx = s.nctx := rfl
@[simp] theorem State.emit_ctx (s : State) (r : Response) (c : CtxIdx) : (s.emit r).ctx c = s.ctx c := rfl

/-! ### `setCtx` -/

@[simp] theorem State.setCtx_ctxs (s : State) (c : CtxIdx) (x : Context) :
    (s.setCtx c x).ctxs = s.ctxs.set c.toNat x := rfl
@[simp] theorem State.setCtx_rx (s : State) (c : CtxIdx) (x : Context) : (s.setCtx c x).rx = s.rx := rfl
@[simp] theorem State.setCtx_tx (s : State) (c : CtxIdx) (x : Context) : (s.setCtx c x).tx = s.tx := rfl
@[simp] theorem State.setCtx_resetPin (s : State) (c : CtxIdx) (x : Context) :
    (s.setCtx c x).resetPin = s.resetPin := rfl
@[simp] theorem State.setCtx_resets (s : State) (c : CtxIdx) (x : Context) : (s.setCtx c x).resets = s.resets := rfl
@[simp] theorem State.setCtx_nctx (s : State) (c : CtxIdx) (x : Context) : (s.setCtx c x).nctx = s.nctx := by
  simp [State.nctx]

/-- R101: a context that was just written reads as written. -/
theorem State.setCtx_ctx_self (s : State) (c : CtxIdx) (x : Context) (h : c.toNat < s.nctx) :
    (s.setCtx c x).ctx c = x := by
  simp only [State.nctx] at h
  simp [State.ctx, h]

/-- R106: a write to one context leaves every other as it was. -/
theorem State.setCtx_ctx_ne (s : State) (c d : CtxIdx) (x : Context) (h : c ≠ d) :
    (s.setCtx c x).ctx d = s.ctx d := by
  have h' : c.toNat ≠ d.toNat := fun e => h (BitVec.eq_of_toNat_eq e)
  simp [State.ctx, List.getElem?_set_ne h']

/-- R101: a context inside the file is the one the file lists. -/
theorem State.ctx_of_getElem? (s : State) (c : CtxIdx) (x : Context) (h : s.ctxs[c.toNat]? = some x) :
    s.ctx c = x := by
  simp [State.ctx, h]

theorem State.lt_nctx_of_getElem? (s : State) (c : CtxIdx) (x : Context) (h : s.ctxs[c.toNat]? = some x) :
    c.toNat < s.nctx := (List.getElem?_eq_some_iff.1 h).1

theorem State.ctx_mem (s : State) (c : CtxIdx) (h : c.toNat < s.nctx) : s.ctx c ∈ s.ctxs := by
  simp only [State.nctx] at h
  simp [State.ctx, h]

/-! ### The host's inputs -/

@[simp] theorem State.hostSend_ctxs (s : State) (bs : Bytes) : (s.hostSend bs).ctxs = s.ctxs := rfl
@[simp] theorem State.hostSend_rx (s : State) (bs : Bytes) : (s.hostSend bs).rx = s.rx ++ bs := rfl
@[simp] theorem State.hostSend_tx (s : State) (bs : Bytes) : (s.hostSend bs).tx = s.tx := rfl
@[simp] theorem State.hostSend_resetPin (s : State) (bs : Bytes) : (s.hostSend bs).resetPin = s.resetPin := rfl
@[simp] theorem State.hostSend_resets (s : State) (bs : Bytes) : (s.hostSend bs).resets = s.resets := rfl
@[simp] theorem State.hostReset_ctxs (s : State) : s.hostReset.ctxs = s.ctxs := rfl
@[simp] theorem State.hostReset_resetPin (s : State) : s.hostReset.resetPin = true := rfl

/-! ### Reset -/

@[simp] theorem takeReset_rx (s : State) : (takeReset s).rx = [] := rfl
@[simp] theorem takeReset_tx (s : State) : (takeReset s).tx = s.tx := rfl
@[simp] theorem takeReset_resetPin (s : State) : (takeReset s).resetPin = false := rfl
@[simp] theorem takeReset_resets (s : State) : (takeReset s).resets = s.resets + 1 := rfl
@[simp] theorem takeReset_nctx (s : State) : (takeReset s).nctx = s.nctx := by simp [State.nctx, takeReset]
@[simp] theorem Context.afterReset_valid (draw c : Nat) : (Context.afterReset draw c).valid = false := rfl

/-- R700: every context a reset leaves is invalid. -/
theorem takeReset_invalid (s : State) : ∀ x ∈ (takeReset s).ctxs, x.valid = false := by
  intro x hx
  obtain ⟨c, -, rfl⟩ := List.mem_map.1 hx
  rfl

/-! ### Contexts -/

@[simp] theorem Context.initialised_valid (x : Context) : x.initialised.valid = true := rfl
@[simp] theorem Context.initialised_h (x : Context) : x.initialised.h = IV := rfl
@[simp] theorem Context.initialised_cnt (x : Context) : x.initialised.cnt = 0 := rfl
@[simp] theorem Context.initialised_buf (x : Context) : x.initialised.buf = x.buf := rfl
@[simp] theorem Context.absorbByte_valid (x : Context) (b : Byte) : (x.absorbByte b).valid = x.valid := rfl
@[simp] theorem Context.absorbByte_cnt (x : Context) (b : Byte) : (x.absorbByte b).cnt = x.cnt + 1 := rfl
@[simp] theorem Context.absorbByte_buf (x : Context) (b : Byte) : (x.absorbByte b).buf = x.putByte b := rfl
@[simp] theorem Context.absorb_nil (x : Context) : x.absorb [] = x := rfl
@[simp] theorem Context.absorb_cons (x : Context) (b : Byte) (bs : Bytes) :
    x.absorb (b :: bs) = (x.absorbByte b).absorb bs := rfl

/-- R502: absorbing two sequences one after the other is absorbing their concatenation. -/
theorem Context.absorb_append (x : Context) (m n : Bytes) : x.absorb (m ++ n) = (x.absorb m).absorb n :=
  List.foldl_append ..

@[simp] theorem Context.absorb_valid (x : Context) (m : Bytes) : (x.absorb m).valid = x.valid := by
  induction m generalizing x with
  | nil => rfl
  | cons b bs ih => simp [ih]

end Sys2Proof.Machine
end

