-- ==== Sys2Proof/Laws/Datapath.lean ====
section
/-! SUPPORT. The lengths and the defining equations of the datapath (R422, R462, R463), the padding (R480) and the codec
(R540, R541). -/

namespace Sys2Proof.Machine

/-! ### Words and States on the wire -/

@[simp] theorem length_flatMap_u32be (ws : List Word) : (ws.flatMap u32be).length = 4 * ws.length := by
  induction ws with
  | nil => rfl
  | cons w ws ih => simp [ih]; omega

@[simp] theorem Chain.length_words (S : Chain) : S.words.length = 8 := rfl

@[simp] theorem length_stateToDigest (S : Chain) : (stateToDigest S).length = 32 := by simp [stateToDigest]

/-- R310: word `j` of a payload of words. -/
theorem be32_flatMap_u32be (ws : List Word) (R : Bytes) (j : Nat) (h : j < ws.length) :
    be32 (ws.flatMap u32be ++ R) (4 * j) = ws[j] := by
  have hb : ws.flatMap u32be ++ R =
      (ws.take j).flatMap u32be ++ u32be ws[j] ++ ((ws.drop (j + 1)).flatMap u32be ++ R) := by
    have e : (ws.take j ++ ws[j] :: ws.drop (j + 1)).flatMap u32be = ws.flatMap u32be := by simp
    rw [← e]
    simp only [List.flatMap_append, List.flatMap_cons, List.append_assoc]
  rw [hb]
  exact be32_middle _ _ _ _ (by simp; omega)

/-- R541 undoes R540, whatever bytes follow the digest. -/
theorem chainAt_stateToDigest (S : Chain) (R : Bytes) : chainAt (stateToDigest S ++ R) 0 = S := by
  have h (j : Nat) (hj : j < 8) := be32_flatMap_u32be S.words R j hj
  unfold chainAt stateToDigest
  have h0 := h 0 (by decide)
  have h1 := h 1 (by decide)
  have h2 := h 2 (by decide)
  have h3 := h 3 (by decide)
  have h4 := h 4 (by decide)
  have h5 := h 5 (by decide)
  have h6 := h 6 (by decide)
  have h7 := h 7 (by decide)
  simp only [Nat.reduceMul, Nat.zero_add] at *
  rw [h0, h1, h2, h3, h4, h5, h6, h7]
  rfl

/-- R540 undoes R541. -/
theorem stateToDigest_chainAt (d : Bytes) (h : d.length = 32) : stateToDigest (chainAt d 0) = d := by
  have hu (i : Nat) (hi : i + 4 ≤ 32) : u32be (be32 d i) = slice d i (i + 4) := u32be_be32 d i (by omega)
  simp only [stateToDigest, Chain.words, chainAt, List.flatMap_cons, List.flatMap_nil, List.append_nil, Nat.zero_add]
  rw [hu 0 (by decide), hu 4 (by decide), hu 8 (by decide), hu 12 (by decide), hu 16 (by decide), hu 20 (by decide),
    hu 24 (by decide), hu 28 (by decide)]
  simp only [Nat.zero_add, Nat.reduceAdd]
  rw [slice_append_slice d 24 28 32 (by decide) (by decide), slice_append_slice d 20 24 32 (by decide) (by decide),
    slice_append_slice d 16 20 32 (by decide) (by decide), slice_append_slice d 12 16 32 (by decide) (by decide),
    slice_append_slice d 8 12 32 (by decide) (by decide), slice_append_slice d 4 8 32 (by decide) (by decide),
    slice_append_slice d 0 4 32 (by decide) (by decide), ← h, slice_all]

/-! ### The schedule and the rounds -/

@[simp] theorem length_blockWords (block : Bytes) : (blockWords block).length = 16 := by simp [blockWords]

@[simp] theorem length_expandFrom (n : Nat) (W : List Word) : (expandFrom n W).length = W.length + n := by
  induction n generalizing W with
  | zero => rfl
  | succ n ih => simp [expandFrom, ih]; omega

@[simp] theorem length_expand (block : Bytes) : (expand block).length = 64 := by simp [expand]

/-- The loop only appends: the words already there stay. -/
theorem expandFrom_getD (n : Nat) (W : List Word) (i : Nat) (h : i < W.length) :
    (expandFrom n W).getD i 0 = W.getD i 0 := by
  induction n generalizing W with
  | zero => rfl
  | succ n ih =>
    rw [expandFrom, ih _ (by simp; omega)]
    simp [List.getElem?_append_left h]

@[simp] theorem length_K : K.length = 64 := by decide

/-- R401 for two terms. -/
theorem add32_pair (x y : Word) : add32 [x, y] = x + y := by
  apply BitVec.eq_of_toNat_eq
  simp [add32]

/-- R463: no bytes, no compression. -/
@[simp] theorem feed_nil (S : Chain) : feed S [] = S := rfl

/-- R463: one 64-byte piece, then the rest. -/
theorem feed_block (S : Chain) (B D : Bytes) (h : B.length = 64) : feed S (B ++ D) = feed (compress S B) D := by
  have e : (B ++ D).length / 64 = D.length / 64 + 1 := by simp [h]
  rw [feed, e, feedBlocks, feed, List.take_left' h, List.drop_left' h]

/-! ### Padding -/

theorem padZeros_lt (n : Nat) : padZeros n < 64 := by simp only [padZeros]; omega

@[simp] theorem length_pad (n : Nat) : (pad n).length = padlen n := by simp [pad, padlen]; omega

/-- R481: the message and its padding are whole blocks. -/
theorem add_padlen_mod (n : Nat) : (n + padlen n) % 64 = 0 := by simp only [padlen, padZeros]; omega

end Sys2Proof.Machine
end

