-- ==== Sys2Proof/Laws/Decode.lean ====
section
/-! SUPPORT. The fields of a command word (R302) and the frame around it (R300): how each is put together and taken apart. -/

namespace Sys2Proof

open Machine

/-- A command word put together from its four fields. -/
def packWord (rsv : BitVec 16) (cb ca : CtxIdx) (opc : Byte) : Word := rsv ++ cb ++ ca ++ opc

theorem Instr.cmdWord_eq (i : Instr) : i.cmdWord = packWord 0 i.fieldCB i.fieldCA i.opcode := rfl

@[simp] theorem cmdOpc_packWord (rsv : BitVec 16) (cb ca : CtxIdx) (opc : Byte) :
    cmdOpc (packWord rsv cb ca opc) = opc := by
  apply BitVec.eq_of_getLsbD_eq
  intro k hk
  simp only [cmdOpc, packWord, BitVec.getLsbD_extractLsb', BitVec.getLsbD_append]
  simp [hk]

@[simp] theorem cmdCA_packWord (rsv : BitVec 16) (cb ca : CtxIdx) (opc : Byte) :
    cmdCA (packWord rsv cb ca opc) = ca := by
  apply BitVec.eq_of_getLsbD_eq
  intro k hk
  simp only [cmdCA, packWord, BitVec.getLsbD_extractLsb', BitVec.getLsbD_append]
  simp [hk]

@[simp] theorem cmdCB_packWord (rsv : BitVec 16) (cb ca : CtxIdx) (opc : Byte) :
    cmdCB (packWord rsv cb ca opc) = cb := by
  apply BitVec.eq_of_getLsbD_eq
  intro k hk
  have e : 12 + k - 8 - 4 = k := by omega
  simp only [cmdCB, packWord, BitVec.getLsbD_extractLsb', BitVec.getLsbD_append, e]
  simp [hk, show ¬ 12 + k < 8 by omega, show ¬ 12 + k - 8 < 4 by omega]

@[simp] theorem cmdRsv_packWord (rsv : BitVec 16) (cb ca : CtxIdx) (opc : Byte) :
    cmdRsv (packWord rsv cb ca opc) = rsv := by
  apply BitVec.eq_of_getLsbD_eq
  intro k hk
  have e : 16 + k - 8 - 4 - 4 = k := by omega
  simp only [cmdRsv, packWord, BitVec.getLsbD_extractLsb', BitVec.getLsbD_append, e]
  simp [hk, show ¬ 16 + k < 8 by omega, show ¬ 16 + k - 8 < 4 by omega, show ¬ 16 + k - 8 - 4 < 4 by omega]

/-- R302: a command word is its four fields. -/
theorem packWord_fields (cmd : Word) : packWord (cmdRsv cmd) (cmdCB cmd) (cmdCA cmd) (cmdOpc cmd) = cmd := by
  apply BitVec.eq_of_getLsbD_eq
  intro k hk
  simp only [cmdRsv, cmdCB, cmdCA, cmdOpc, packWord, BitVec.getLsbD_extractLsb', BitVec.getLsbD_append]
  by_cases h1 : k < 8
  · simp [h1]
  by_cases h2 : k - 8 < 4
  · simp [h1, h2, show 8 + (k - 8) = k by omega]
  by_cases h3 : k - 8 - 4 < 4
  · simp [h1, h2, h3, show 12 + (k - 8 - 4) = k by omega]
  · simp [h1, h2, h3, show k - 8 - 4 - 4 < 16 by omega, show 16 + (k - 8 - 4 - 4) = k by omega]

/-- R302: the fields of a command word as numbers. -/
theorem cmd_fields_toNat (cmd : Word) :
    (cmdOpc cmd).toNat = cmd.toNat % 256 ∧ (cmdCA cmd).toNat = cmd.toNat / 256 % 16 ∧
    (cmdCB cmd).toNat = cmd.toNat / 4096 % 16 ∧ (cmdRsv cmd).toNat = cmd.toNat / 65536 := by
  have h := cmd.isLt
  refine ⟨?_, ?_, ?_, ?_⟩
  · simp [cmdOpc]
  · simp [cmdCA, Nat.shiftRight_eq_div_pow]
  · simp [cmdCB, Nat.shiftRight_eq_div_pow]
  · simp [cmdRsv, Nat.shiftRight_eq_div_pow]
    omega

/-- R300: the frame of any command word and payload, with any bytes after it, is taken whole and handed to the word decoder. -/
theorem decodeFrame_frame (cmd : Word) (p rest : Bytes) (h : p.length < 2 ^ 64) :
    decodeFrame (u32be cmd ++ u64be p.length ++ p ++ rest) =
      match decodeWord cmd p with
      | .error e => .illegal e rest
      | .ok i => .command i rest := by
  have e1 : be64 (u32be cmd ++ u64be p.length ++ p ++ rest) 4 = p.length := by
    have := be64_middle (u32be cmd) (p ++ rest) p.length 4 (by simp) h
    simpa using this
  have e2 : be32 (u32be cmd ++ u64be p.length ++ p ++ rest) 0 = cmd := by
    have := be32_middle [] (u64be p.length ++ (p ++ rest)) cmd 0 rfl
    simpa using this
  have e3 : slice (u32be cmd ++ u64be p.length ++ p ++ rest) 12 (12 + p.length) = p :=
    slice_middle (u32be cmd ++ u64be p.length) p rest _ _ (by simp) (by simp)
  have e4 : (u32be cmd ++ u64be p.length ++ p ++ rest).drop (12 + p.length) = rest := by
    have : 12 + p.length = (u32be cmd ++ u64be p.length ++ p).length := by simp; omega
    rw [this, List.drop_left]
  have l1 : ¬ (u32be cmd ++ u64be p.length ++ p ++ rest).length < 12 := by simp; omega
  have l2 : ¬ (u32be cmd ++ u64be p.length ++ p ++ rest).length < 12 + p.length := by simp; omega
  cases hd : decodeWord cmd p <;> simp only [decodeFrame, if_neg l1, e1, if_neg l2, e2, e3, e4, hd]

/-- What decoding a command word to a command says: the opcode is assigned, RSV is 0, and the unused fields are 0. -/
theorem decodeWord_ok (cmd : Word) (p : Bytes) (i : Instr) (h : decodeWord cmd p = .ok i) :
    commandOf (cmdOpc cmd) (cmdCA cmd) (cmdCB cmd) p = some i ∧ cmdRsv cmd = 0 ∧
    (opcUsesCA (cmdOpc cmd) = false → cmdCA cmd = 0) ∧ (opcUsesCB (cmdOpc cmd) = false → cmdCB cmd = 0) := by
  unfold decodeWord at h
  split at h
  · cases h
  · rename_i j hj
    split at h
    · cases h
    · rename_i h1
      split at h
      · cases h
      · rename_i h2
        split at h
        · cases h
        · rename_i h3
          cases h
          refine ⟨hj, not_not.1 h1, fun ha => ?_, fun hb => ?_⟩
          · exact not_not.1 fun hne => h2 ⟨ha, hne⟩
          · exact not_not.1 fun hne => h3 ⟨hb, hne⟩

end Sys2Proof
end

