-- ==== Sys2Proof/Laws/Ops.lean ====
section
/-! SUPPORT. What the shared operations can do: the ordered tests (R608), refusing (R610), and one inversion lemma for
all fifteen commands. -/

namespace Sys2Proof.Machine

@[simp] theorem firstFailing_nil : firstFailing [] = none := rfl
@[simp] theorem firstFailing_true (c : Cause) (ts : Tests) : firstFailing ((true, c) :: ts) = some c := rfl
@[simp] theorem firstFailing_false (c : Cause) (ts : Tests) : firstFailing ((false, c) :: ts) = firstFailing ts := rfl

theorem firstFailing_decide (P : Prop) [Decidable P] (c : Cause) (ts : Tests) :
    firstFailing ((decide P, c) :: ts) = if P then some c else firstFailing ts := by
  by_cases h : P <;> simp [h]

theorem firstFailing_not (b : Bool) (c : Cause) (ts : Tests) :
    firstFailing ((!b, c) :: ts) = if b = false then some c else firstFailing ts := by
  cases b <;> rfl

theorem firstFailing_cons (b : Bool) (c : Cause) (ts : Tests) :
    firstFailing ((b, c) :: ts) = if b = true then some c else firstFailing ts := by
  cases b <;> rfl

/-- R608: no cause is reported exactly when every test passes. -/
theorem firstFailing_eq_none (ts : Tests) : firstFailing ts = none ↔ ∀ t ∈ ts, t.1 = false := by
  induction ts with
  | nil => simp
  | cons t ts ih =>
    obtain ⟨b, c⟩ := t
    cases b <;> simp [ih]

theorem guarded_none (ts : Tests) (s : State) (body : Outcome) (h : firstFailing ts = none) :
    guarded ts s body = body := by
  simp [guarded, h]

theorem guarded_some (ts : Tests) (s : State) (body : Outcome) (c : Cause) (h : firstFailing ts = some c) :
    guarded ts s body = raise c s := by
  simp [guarded, h]

/-- R608: a guarded command runs with every test passed, or is refused with the first cause. -/
theorem guarded_cases (ts : Tests) (s : State) (body : Outcome) :
    (firstFailing ts = none ∧ guarded ts s body = body) ∨
    (∃ c, firstFailing ts = some c ∧ guarded ts s body = raise c s) := by
  cases h : firstFailing ts with
  | none => exact .inl ⟨rfl, guarded_none _ _ _ h⟩
  | some c => exact .inr ⟨c, rfl, guarded_some _ _ _ _ h⟩

theorem maxLen_eq : Config.maxLen = 2 ^ 61 - 1 := rfl

/-- R12: a command whose tests all pass answers with its data. -/
theorem guarded_respond (ts : Tests) (s t : State) (D : Bytes) (h : firstFailing ts = none) :
    guarded ts s (respond D t) = .next (t.answered D) := by
  rw [guarded_none _ _ _ h]
  rfl

/-- R610: a command with a failing test is refused with the status word of the first. -/
theorem guarded_refused (ts : Tests) (s : State) (body : Outcome) (c : Cause) (h : firstFailing ts = some c) :
    guarded ts s body = .next (s.refusedWith c.word) := by
  rw [guarded_some _ _ _ _ h]
  rfl

@[simp] theorem okWord_eq : okWord = 0 := by decide

/-- R601, R602: no refusal is reported with STATUS OK. -/
theorem Cause.statusField_ne_zero (c : Cause) (D : Bytes) : (Response.statusField ⟨c.word, D⟩) ≠ 0 := by
  show c.word.extractLsb' 0 8 ≠ 0
  cases c <;> decide

theorem Cause.word_ne_zero (c : Cause) : c.word ≠ 0 := by cases c <;> decide

/-- Everything a command can do: it is refused; or it answers and writes no context; or it is one of the three
commands that write a context, with its tests passed. -/
theorem exec_cases (i : Instr) (s : State) :
    (∃ c, exec i s = raise c s) ∨
    (∃ D, i.isPure = true ∧ exec i s = respond D s) ∨
    (∃ ca p, i = .ctxInit ca p ∧ firstFailing (ctxInitTests ca p s) = none ∧
      exec i s = respond [] (s.setCtx ca (s.ctx ca).initialised)) ∨
    (∃ ca p, i = .ctxAbsorb ca p ∧ firstFailing (ctxAbsorbTests ca p s) = none ∧
      exec i s = respond [] (s.setCtx ca ((s.ctx ca).absorb p))) ∨
    (∃ ca cb p, i = .ctxClone ca cb p ∧ firstFailing (ctxCloneTests ca cb p s) = none ∧
      exec i s = respond [] (s.setCtx ca (s.ctx cb))) := by
  have pure_guard : ∀ (ts : Tests) (D : Bytes), i.isPure = true → exec i s = guarded ts s (respond D s) →
      (∃ c, exec i s = raise c s) ∨ (∃ D, i.isPure = true ∧ exec i s = respond D s) := by
    intro ts D hp he
    rcases guarded_cases ts s (respond D s) with ⟨-, h⟩ | ⟨c, -, h⟩
    · exact .inr ⟨D, hp, he.trans h⟩
    · exact .inl ⟨c, he.trans h⟩
  have lift {A B : Prop} {C : Prop} (h : A ∨ B) : A ∨ B ∨ C := h.elim .inl fun b => .inr (.inl b)
  cases i with
  | add32 p => exact lift (pure_guard _ _ rfl rfl)
  | rotr32 p => exact lift (pure_guard _ _ rfl rfl)
  | expand p => exact lift (pure_guard _ _ rfl rfl)
  | step p => exact lift (pure_guard _ _ rfl rfl)
  | compress p => exact lift (pure_guard _ _ rfl rfl)
  | pad p => exact lift (pure_guard _ _ rfl rfl)
  | hash p => exact lift (pure_guard _ _ rfl rfl)
  | s2d p => exact lift (pure_guard _ _ rfl rfl)
  | extend p => exact lift (pure_guard _ _ rfl rfl)
  | forge p => exact lift (pure_guard _ _ rfl rfl)
  | ctxFinal ca p => exact lift (pure_guard _ _ rfl rfl)
  | d2s p =>
    by_cases hp : p.length ≠ 32
    · exact .inl ⟨.digestLength, by simp [exec, execD2s, digestToState, hp]⟩
    · exact .inr (.inl ⟨_, rfl, by simp only [exec, execD2s, digestToState, hp, if_false]; rfl⟩)
  | ctxInit ca p =>
    rcases guarded_cases (ctxInitTests ca p s) s (respond [] (s.setCtx ca (s.ctx ca).initialised)) with ⟨hn, h⟩ | ⟨c, -, h⟩
    · exact .inr (.inr (.inl ⟨ca, p, rfl, hn, h⟩))
    · exact .inl ⟨c, h⟩
  | ctxAbsorb ca p =>
    rcases guarded_cases (ctxAbsorbTests ca p s) s (respond [] (s.setCtx ca ((s.ctx ca).absorb p))) with ⟨hn, h⟩ | ⟨c, -, h⟩
    · exact .inr (.inr (.inr (.inl ⟨ca, p, rfl, hn, h⟩)))
    · exact .inl ⟨c, h⟩
  | ctxClone ca cb p =>
    rcases guarded_cases (ctxCloneTests ca cb p s) s (respond [] (s.setCtx ca (s.ctx cb))) with ⟨hn, h⟩ | ⟨c, -, h⟩
    · exact .inr (.inr (.inr (.inr ⟨ca, cb, p, rfl, hn, h⟩)))
    · exact .inl ⟨c, h⟩

end Sys2Proof.Machine
end

