-- ==== Sys2Proof/Laws/PerInstr.lean ====
section
/-! SUPPORT. Per command: its command word, put together as R302 says, decodes to it, with every field at every value. -/

namespace Sys2Proof.Laws.CommandWord

/-- R302, R304, R306: the command word of a command decodes, with the command's payload, to the command. -/
def Statement (i : Instr) : Prop := decodeWord i.cmdWord i.payload = .ok i

/-- A command word decodes to its command when its opcode stands for the command and its unused fields are 0. -/
theorem of_fields {i : Instr} (h : commandOf i.opcode i.fieldCA i.fieldCB i.payload = some i)
    (ha : opcUsesCA i.opcode = false → i.fieldCA = 0) (hb : opcUsesCB i.opcode = false → i.fieldCB = 0) :
    Statement i := by
  have ha' : ¬ (opcUsesCA i.opcode = false ∧ i.fieldCA ≠ 0) := fun ⟨u, n⟩ => n (ha u)
  have hb' : ¬ (opcUsesCB i.opcode = false ∧ i.fieldCB ≠ 0) := fun ⟨u, n⟩ => n (hb u)
  unfold Statement decodeWord
  simp only [Instr.cmdWord_eq, cmdOpc_packWord, cmdCA_packWord, cmdCB_packWord, cmdRsv_packWord, h]
  rw [if_neg (by simp), if_neg ha', if_neg hb']

theorem add32 (p : Bytes) : Statement (.add32 p) := of_fields rfl (fun _ => rfl) (fun _ => rfl)
theorem rotr32 (p : Bytes) : Statement (.rotr32 p) := of_fields rfl (fun _ => rfl) (fun _ => rfl)
theorem expand (p : Bytes) : Statement (.expand p) := of_fields rfl (fun _ => rfl) (fun _ => rfl)
theorem step (p : Bytes) : Statement (.step p) := of_fields rfl (fun _ => rfl) (fun _ => rfl)
theorem compress (p : Bytes) : Statement (.compress p) := of_fields rfl (fun _ => rfl) (fun _ => rfl)
theorem pad (p : Bytes) : Statement (.pad p) := of_fields rfl (fun _ => rfl) (fun _ => rfl)
theorem hash (p : Bytes) : Statement (.hash p) := of_fields rfl (fun _ => rfl) (fun _ => rfl)
theorem s2d (p : Bytes) : Statement (.s2d p) := of_fields rfl (fun _ => rfl) (fun _ => rfl)
theorem d2s (p : Bytes) : Statement (.d2s p) := of_fields rfl (fun _ => rfl) (fun _ => rfl)
theorem extend (p : Bytes) : Statement (.extend p) := of_fields rfl (fun _ => rfl) (fun _ => rfl)
theorem forge (p : Bytes) : Statement (.forge p) := of_fields rfl (fun _ => rfl) (fun _ => rfl)

theorem ctxInit (ca : CtxIdx) (p : Bytes) : Statement (.ctxInit ca p) :=
  of_fields rfl (fun h => absurd h (by simp [opcUsesCA, Instr.opcode])) (fun _ => rfl)

theorem ctxAbsorb (ca : CtxIdx) (p : Bytes) : Statement (.ctxAbsorb ca p) :=
  of_fields rfl (fun h => absurd h (by simp [opcUsesCA, Instr.opcode])) (fun _ => rfl)

theorem ctxFinal (ca : CtxIdx) (p : Bytes) : Statement (.ctxFinal ca p) :=
  of_fields rfl (fun h => absurd h (by simp [opcUsesCA, Instr.opcode])) (fun _ => rfl)

theorem ctxClone (ca cb : CtxIdx) (p : Bytes) : Statement (.ctxClone ca cb p) :=
  of_fields rfl (fun h => absurd h (by simp [opcUsesCA, Instr.opcode]))
    (fun h => absurd h (by simp [opcUsesCB, Instr.opcode]))

end Sys2Proof.Laws.CommandWord
end

