-- ==== Sys2Proof/Laws/Run.lean ====
section
/-! SUPPORT. The small lemmas of a run (R631): how its events unfold, and what each changes. -/

namespace Sys2Proof.Machine

@[simp] theorem Run.start_machine (s : State) : (Run.start s).machine = s := rfl
@[simp] theorem Run.start_seen (s : State) : (Run.start s).seen = [] := rfl
@[simp] theorem Run.start_earlier (s : State) : (Run.start s).earlier = s.tx.length := rfl

@[simp] theorem Run.after_nil (r : Run) : r.after [] = some r := rfl

theorem Run.after_cons (r : Run) (e : Event) (es : List Event) : r.after (e :: es) = (r.event e).bind (·.after es) := by
  rw [Run.after]
  cases r.event e <;> rfl

/-- Events in two parts. -/
theorem Run.after_append (r : Run) (es fs : List Event) : r.after (es ++ fs) = (r.after es).bind (·.after fs) := by
  induction es generalizing r with
  | nil => rfl
  | cons e es ih =>
    rw [List.cons_append, Run.after_cons, Run.after_cons]
    cases r.event e with
    | none => rfl
    | some q => exact ih q

/-- A step of the engine within a run, where no reset is asserted. -/
theorem Run.step_next (r : Run) (t : State) (hp : r.machine.resetPin = false)
    (h : Sys2Proof.Machine.step r.machine = .next t) : r.step = some { r with machine := t } := by
  simp [Run.step, h, hp]

/-- R630: reading a response moves the oldest one that waits to those read, and changes nothing else of the engine. -/
theorem Run.read_cases (r : Run) :
    (r.machine.tx = [] ∧ r.read = r) ∨
    (∃ x rest, r.machine.tx = x :: rest ∧
      r.read = { r with machine := { r.machine with tx := rest }, seen := r.seen ++ [x] }) := by
  cases h : r.machine.tx with
  | nil => exact .inl ⟨rfl, by simp [Run.read, State.hostRead, h]⟩
  | cons x rest => exact .inr ⟨x, rest, rfl, by simp [Run.read, State.hostRead, h]⟩

/-- R631: reading changes no run's responses. -/
@[simp] theorem Run.responses_read (r : Run) : r.read.responses = r.responses := by
  rcases r.read_cases with ⟨-, h⟩ | ⟨x, rest, ht, h⟩
  · rw [h]
  · simp [h, Run.responses, ht]

theorem sentBytes_cons (e : Event) (es : List Event) : sentBytes (e :: es) = sentBytes [e] ++ sentBytes es := by
  cases e <;> simp [sentBytes]

end Sys2Proof.Machine
end

