-- ==== Sys2Proof/Tests/Slice0.lean ====
section
/-! SUPPORT. The tests: the well-formedness smoke test, decoding of words written out from the encoding (30_encoding.md), one
or two single steps per command with results from spec/95_test_vectors.md, and, for every obligation with hypotheses, a
`witness_…` theorem that concrete values meet them. -/

namespace Sys2Proof.Machine.Tests.Slice0

/-- The `n` bytes of a number written in hexadecimal, first byte first. -/
def hex (n w : Nat) : Bytes := (List.range n).map fun i => BitVec.ofNat 8 (w / 256 ^ (n - 1 - i))

/-- The bytes k, k+1, … -/
def rising (k n : Nat) : Bytes := (List.range n).map fun i => BitVec.ofNat 8 (k + i)

/-- A frame with the command word and payload given. -/
def frame (cmd : Nat) (p : Bytes) : Bytes := hex 4 cmd ++ hex 8 p.length ++ p

/-- A valid context. -/
def ctxOf (h : Chain) (buf : Bytes) (cnt : Nat) : Context :=
  ⟨true, h, Vector.ofFn fun i : Fin 64 => buf.getD i.val 0, BitVec.ofNat 64 cnt⟩

/-- Four contexts, of which only number 3 may be other than at reset. -/
def small (x : Context) : State := { State.reset with ctxs := [.blank, .blank, .blank, x] }

def nextOf : Outcome → Option State
  | .next s => some s
  | .fault _ => none
  | .refused _ => none

/-- What one step on one frame answers. -/
def answers (s : State) (f : Bytes) : Option (List Response) := (nextOf (step (s.hostSend f))).map State.tx

/-- The contexts after one step on one frame. -/
def ctxsAfter (s : State) (f : Bytes) : Option (List Context) := (nextOf (step (s.hostSend f))).map State.ctxs

def ivBytes : Bytes := hex 32 0x6a09e667bb67ae853c6ef372a54ff53a510e527f9b05688c1f83d9ab5be0cd19
def helloDigest : Bytes := hex 32 0x2cf24dba5fb0a30e26e83b2ac5b9e29e1b161e5c1fa7425e73043362938b9824
def hello : Bytes := hex 5 0x68656c6c6f

/-! ## Well-formedness: the one check refuses a payload whose length does not fit PLEN -/

theorem test_wellFormed_refuses_long : (Instr.hash (List.replicate (2 ^ 64) 0)).wellFormed = false := by
  simp only [Instr.wellFormed, Instr.payload, List.length_replicate]
  decide

theorem test_wellFormed_accepts_longest : (Instr.hash (List.replicate (2 ^ 64 - 1) 0)).wellFormed = true := by
  simp only [Instr.wellFormed, Instr.payload, List.length_replicate]
  decide

/-! ## Decoding: the words of R302 and R304, bit 31 first -/

theorem test_decode_add32 : decodeTableWord 32 0b00000000000000000000000000000001 = some (.add32 []) := by decide
theorem test_decode_rotr32 : decodeTableWord 32 0b00000000000000000000000000000010 = some (.rotr32 []) := by decide
theorem test_decode_expand : decodeTableWord 32 0b00000000000000000000000000010000 = some (.expand []) := by decide
theorem test_decode_step : decodeTableWord 32 0b00000000000000000000000000010001 = some (.step []) := by decide
theorem test_decode_compress : decodeTableWord 32 0b00000000000000000000000000010010 = some (.compress []) := by decide
theorem test_decode_pad : decodeTableWord 32 0b00000000000000000000000000010011 = some (.pad []) := by decide
theorem test_decode_hash : decodeTableWord 32 0b00000000000000000000000000010100 = some (.hash []) := by decide
theorem test_decode_ctxInit : decodeTableWord 32 0b00000000000000000000111100100000 = some (.ctxInit 15 []) := by decide
theorem test_decode_ctxAbsorb : decodeTableWord 32 0b00000000000000000000010000100001 = some (.ctxAbsorb 4 []) := by decide
theorem test_decode_ctxFinal : decodeTableWord 32 0b00000000000000000000001000100010 = some (.ctxFinal 2 []) := by decide
theorem test_decode_ctxClone : decodeTableWord 32 0b00000000000000001000000100100011 = some (.ctxClone 1 8 []) := by decide
theorem test_decode_s2d : decodeTableWord 32 0b00000000000000000000000000110000 = some (.s2d []) := by decide
theorem test_decode_d2s : decodeTableWord 32 0b00000000000000000000000000110001 = some (.d2s []) := by decide
theorem test_decode_extend : decodeTableWord 32 0b00000000000000000000000001000000 = some (.extend []) := by decide
theorem test_decode_forge : decodeTableWord 32 0b00000000000000000000000001000001 = some (.forge []) := by decide

/-- 95_test_vectors.md section 2.9: unassigned opcodes, RSV, unused fields; CB wins over CA. -/
theorem test_decode_illegal :
    decodeFrame (frame 0x00000000 []) = .illegal .unassignedOpcode [] ∧
    decodeFrame (frame 0x000000ff []) = .illegal .unassignedOpcode [] ∧
    decodeFrame (frame 0x00010014 []) = .illegal .reservedNonzero [] ∧
    decodeFrame (frame 0x00000114 []) = .illegal .unusedNonzero [] ∧
    decodeFrame (frame 0x00001521 []) = .illegal .unusedNonzero [] := by decide

/-- The encoder's frame of P2's clone, as 95_test_vectors.md prints it. -/
theorem test_encode_clone : encode (.ctxClone 1 0 []) = hex 12 0x000001230000000000000000 := by decide

/-! ## Single steps, from 95_test_vectors.md sections 2 and 3 -/

set_option maxRecDepth 100000

theorem test_add32_wraps : answers .reset (frame 0x01 (List.replicate 20 0xff)) = some [⟨0, hex 4 0xfffffffb⟩] := by decide +kernel
theorem test_add32_shape : answers .reset (frame 0x01 (hex 6 0)) = some [⟨0x00000401, []⟩] := by decide +kernel
theorem test_rotr32 : answers .reset (frame 0x02 (hex 8 0x1234567800000004)) = some [⟨0, hex 4 0x81234567⟩] := by decide +kernel
theorem test_rotr32_amount : answers .reset (frame 0x02 (hex 8 0x1234567800000020)) = some [⟨0x00000301, []⟩] := by decide +kernel

/-- Section 2.2: W[0..3], W[16..19] and W[63] of the block 00 01 … 3f. -/
theorem test_expand :
    (answers .reset (frame 0x10 (rising 0 64))).map (·.map fun r => (r.data.take 16, (r.data.drop 64).take 16, r.data.drop 252)) =
      some [(rising 0 16, hex 16 0x2d84894cba99985f65d5a3689bef911d, hex 4 0x24a97715)] := by decide +kernel
theorem test_expand_short : answers .reset (frame 0x10 (rising 0 63)) = some [⟨0x00000101, []⟩] := by decide +kernel

/-- Section 2.3, first row. -/
theorem test_step : answers .reset (frame 0x11 (ivBytes ++ hex 8 0x428a2f9861626380)) =
    some [⟨0, hex 32 0x5d6aebcd6a09e667bb67ae853c6ef372fa2a4622510e527f9b05688c1f83d9ab⟩] := by decide +kernel
/-- Section 2.3, last row. -/
theorem test_step_ones : answers .reset (frame 0x11 (List.replicate 40 0xff)) =
    some [⟨0, hex 32 0xfffffff9fffffffffffffffffffffffffffffffaffffffffffffffffffffffff⟩] := by decide +kernel

/-- Program P4. -/
theorem test_compress : answers .reset (frame 0x12 (helloDigest ++ hex 2 0x2180 ++ hex 54 0 ++ hex 8 0x208)) =
    some [⟨0, hex 32 0x0770bbd222faff0e7552a05c21ac59fa307f93c5a25ed186efae60de0f1c7490⟩] := by decide +kernel
theorem test_compress_shape : answers .reset (frame 0x12 (hex 31 0)) = some [⟨0x00000401, []⟩] := by decide +kernel

theorem test_pad_maxlen : answers .reset (frame 0x13 (hex 8 0x1fffffffffffffff)) =
    some [⟨0, [0x80] ++ hex 56 0 ++ hex 8 0xfffffffffffffff8⟩] := by decide +kernel
theorem test_pad_range : answers .reset (frame 0x13 (hex 8 0x2000000000000000)) = some [⟨0x00000105, []⟩] := by decide +kernel

/-- Section 1 E1. -/
theorem test_hash_abc : answers .reset (frame 0x14 (hex 3 0x616263)) =
    some [⟨0, hex 32 0xba7816bf8f01cfea414140de5dae2223b00361a396177a9cb410ff61f20015ad⟩] := by decide +kernel
/-- Section 2.6: "a" × 64, two blocks. -/
theorem test_hash_two_blocks : answers .reset (frame 0x14 (List.replicate 64 0x61)) =
    some [⟨0, hex 32 0xffe054fe7ae0cb6dc65c3af9b61d5209f439851db43d0ba5997337df154668eb⟩] := by decide +kernel

/-- Section 2.6 S1. -/
theorem test_ctxInit : (ctxsAfter .reset (frame 0x00000020 [])).map (·.map fun x => (x.valid, x.cnt)) =
    some [(true, 0), (false, 0), (false, 0), (false, 0)] := by decide +kernel
theorem test_ctxInit_range : answers .reset (frame 0x00000420 []) = some [⟨0x00000103, []⟩] := by decide +kernel

/-- Section 2.6 S4, program P5: the block is completed after 4 of the 7 bytes. -/
theorem test_ctxAbsorb :
    (ctxsAfter (small (ctxOf IV (rising 0 60) 60)) (frame 0x00000321 (hex 7 0x3c3d3e3f78797a))).map
      (·.map fun x => (x.h, x.cnt, x.buf.toList.take 3)) =
    some [(⟨0, 0, 0, 0, 0, 0, 0, 0⟩, 0, hex 3 0), (⟨0, 0, 0, 0, 0, 0, 0, 0⟩, 0, hex 3 0), (⟨0, 0, 0, 0, 0, 0, 0, 0⟩, 0, hex 3 0),
      (⟨0xfc99a2df, 0x88f42a7a, 0x7bb9d180, 0x33cdc6a2, 0x0256755f, 0x9d5b9a50, 0x44a9cc31, 0x5abe84a7⟩, 67,
        hex 3 0x78797a)] := by decide +kernel
theorem test_ctxAbsorb_count : answers (small (ctxOf IV [] (2 ^ 61 - 1))) (frame 0x00000321 [0x78]) =
    some [⟨0x00000205, []⟩] := by decide +kernel

/-- Section 2.6 S5, with the other stale bytes a model may hold. -/
theorem test_ctxFinal :
    answers (small (ctxOf ⟨0xfc99a2df, 0x88f42a7a, 0x7bb9d180, 0x33cdc6a2, 0x0256755f, 0x9d5b9a50, 0x44a9cc31, 0x5abe84a7⟩
      (hex 4 0x78797aff) 67)) (frame 0x00000322 []) =
    some [⟨0, hex 32 0xf26c1339ea78c5c26ff2a541a16a8de9b39b743db983c4ae36a4aa6a5a5545a8⟩] := by decide +kernel
theorem test_ctxFinal_priority : answers .reset (frame 0x00000022 [0x78]) = some [⟨0x00000104, []⟩] := by decide +kernel

/-- Section 2.6: program P2's clone, with the source in context 3. -/
theorem test_ctxClone : ctxsAfter (small (ctxOf IV hello 5)) (frame 0x00003123 []) =
    some [.blank, ctxOf IV hello 5, .blank, ctxOf IV hello 5] := by decide +kernel
theorem test_ctxClone_range : answers .reset (frame 0x00005023 []) = some [⟨0x00000203, []⟩] := by decide +kernel

theorem test_s2d : answers .reset (frame 0x30 ivBytes) = some [⟨0, ivBytes⟩] := by decide +kernel
theorem test_s2d_shape : answers .reset (frame 0x30 (hex 33 0)) = some [⟨0x00000401, []⟩] := by decide +kernel
/-- Section 2.7: the State that the "abc" digest spells. -/
theorem test_d2s : (match digestToState (hex 32 0xba7816bf8f01cfea414140de5dae2223b00361a396177a9cb410ff61f20015ad) with
    | .ok S => some S
    | .error _ => none) =
    some ⟨0xba7816bf, 0x8f01cfea, 0x414140de, 0x5dae2223, 0xb00361a3, 0x96177a9c, 0xb410ff61, 0xf20015ad⟩ := by decide +kernel
theorem test_d2s_shape : answers .reset (frame 0x31 (hex 31 0)) = some [⟨0x00000201, []⟩] := by decide +kernel

/-- Section 1 E8, program P3. -/
theorem test_extend : answers .reset (frame 0x40 (helloDigest ++ hex 8 5 ++ [0x21])) =
    some [⟨0, hex 32 0x0770bbd222faff0e7552a05c21ac59fa307f93c5a25ed186efae60de0f1c7490⟩] := by decide +kernel
theorem test_extend_range : answers .reset (frame 0x40 (helloDigest ++ hex 8 0x1fffffffffffffff)) =
    some [⟨0x00000305, []⟩] := by decide +kernel
theorem test_forge : answers .reset (frame 0x41 (hex 8 5 ++ hello ++ [0x21])) =
    some [⟨0, hello ++ [0x80] ++ hex 50 0 ++ hex 8 0x28 ++ [0x21]⟩] := by decide +kernel
theorem test_forge_length : answers .reset (frame 0x41 (hex 8 3 ++ hex 2 0)) = some [⟨0x00000501, []⟩] := by decide +kernel

/-! ## The interface and the assembler -/

/-- R301: the response frame of section 2.1's first ADD32. -/
theorem test_response_frame :
    (answers .reset (frame 0x01 (hex 8 0x0000000100000002))).map (·.map Response.frame) =
      some [hex 16 0x00000000000000000000000400000003] := by decide +kernel

/-- A step on the word the host places runs it, after what was already queued is left behind it. -/
theorem test_withFetchWord : (nextOf (step (State.reset.withFetchWord 32 0x00000020))).map (fun s => (s.tx, s.rx)) =
    some ([⟨0, []⟩], []) := by decide +kernel

/-- R320, R321 on text: program P1's second line, a comment after it; and the pseudo-instruction. -/
theorem test_assemble_text :
    assembleLine "ctx_absorb c0, \"a\" ++ x\"62\" ; CNT 2".toList = some [.ctxAbsorb 0 [0x61, 0x62]] ∧
    assembleLine "CTX_FORK c1, c0, \"\\x7f\"".toList = some [.ctxClone 1 0 [], .ctxAbsorb 1 [0x7f]] ∧
    assembleLine "ROTR32 0x12345678, 4".toList = some [.rotr32 (hex 8 0x1234567800000004)] ∧
    assembleLine "CTX_INIT c16".toList = none := by decide +kernel

/-! ## A run (R631) -/

/-- The first command of program P6 and its refused CTX_ABSORB of context 7, sent in pieces and read at different times. -/
def p6Events : List Event :=
  [.send (frame 0x00000020 [] ++ [0, 0, 7]), .step, .read, .send (hex 9 0x210000000000000003), .step, .send (hex 3 0x7a7a7a)]

/-- Both responses and the final contexts are observed once the last response is returned, and not before. -/
theorem test_run_observation :
    (((Run.start .reset).after (p6Events ++ [.step])).bind Run.observation).map
        (fun o => (o.responses, o.contexts.map Context.valid)) =
      some ([hex 12 0, hex 12 0x000001030000000000000000], [true, false, false, false]) ∧
    ((Run.start .reset).after p6Events).map Run.observation = some none := by decide +kernel

/-- A reset begins a new run: what was read or returned before is no part of it. -/
theorem test_run_reset :
    ((Run.start .reset).after [.send (frame 0xff [] ++ frame 0xff []), .step, .step, .read, .reset, .step]).map
      (fun r => (r.ended, r.responses, r.seen)) = some (true, [], []) := by decide +kernel

/-- Log 16: an odd number of hexadecimal digits, and a blank between them, are rejected. -/
theorem test_assemble_hex_rejects :
    assembleLine "HASH x\"616\"".toList = none ∧ assembleLine "HASH x\"61 62\"".toList = none := by decide +kernel

/-! ## Witnesses: the hypotheses of each obligation, met together by concrete values, clause by clause -/

/-- A payload one byte longer than MAXLEN. -/
def overlong : Bytes := List.replicate (2 ^ 61) 0

theorem overlong_length : overlong.length = 2 ^ 61 := by simp only [overlong, List.length_replicate]

/-- A state with one queued frame. -/
def queued (f : Bytes) : State := State.reset.hostSend f

/-- A state in which context 0 is valid with the count given. -/
def counted (n : Nat) : State := { State.reset with ctxs := [ctxOf IV [] n, .blank] }

/-- The words 0x000000ff, 0x00010014, 0x00000114, 0x00001521 and 0x0000fe23, each for one clause. -/
theorem witness_DecoderTestsInOrder :
    (0x000000ff % 256 ∉ [0x01, 0x02, 0x10, 0x11, 0x12, 0x13, 0x14, 0x20, 0x21, 0x22, 0x23, 0x30, 0x31, 0x40, 0x41]) ∧
    (0x00010014 % 256 ∈ [0x01, 0x02, 0x10, 0x11, 0x12, 0x13, 0x14, 0x20, 0x21, 0x22, 0x23, 0x30, 0x31, 0x40, 0x41] ∧
      0x00010014 / 65536 ≠ 0) ∧
    (0x00000114 / 65536 = 0 ∧ 0x00000114 % 256 ∉ [0x20, 0x21, 0x22, 0x23] ∧ 0x00000114 / 256 % 16 ≠ 0) ∧
    (0x00001521 / 65536 = 0 ∧ 0x00001521 % 256 ∈ [0x20, 0x21, 0x22] ∧ 0x00001521 / 4096 % 16 ≠ 0) ∧
    (0x0000fe23 / 65536 = 0 ∧ 0x0000fe23 % 256 ∈ [0x20, 0x21, 0x22, 0x23] ∧ 0x0000fe23 % 256 ∉ [0x20, 0x21, 0x22]) := by
  decide

theorem witness_DecodeOfEncode : (Instr.ctxClone 15 0 [0xff]).wellFormed = true := by decide

theorem witness_EncodeOfDecode :
    decodeFrame (frame 0x0000f023 [] ++ [7]) = .command (.ctxClone 0 15 []) [7] := by decide

theorem witness_StepRunsDecodedCommand : (queued (frame 0x30 [1] ++ [9])).resetPin = false ∧
    decodeFrame (queued (frame 0x30 [1] ++ [9])).rx = .command (.s2d [1]) [9] := by decide

/-- 11 bytes; 12 bytes with PLEN = 1. -/
theorem witness_IncompleteFrameWaits :
    (queued (hex 11 0)).resetPin = false ∧ (queued (hex 11 0)).rx.length < 12 ∧
    (queued (hex 12 1)).resetPin = false ∧ (queued (hex 12 1)).rx.length < 12 + beNat (((queued (hex 12 1)).rx.drop 4).take 8) := by
  decide

theorem witness_OneResponsePerFrame :
    (queued (frame 0xff [1])).resetPin = false ∧ 12 ≤ (queued (frame 0xff [1])).rx.length ∧
    12 + beNat (((queued (frame 0xff [1])).rx.drop 4).take 8) ≤ (queued (frame 0xff [1])).rx.length := by decide

theorem witness_IllegalCommandRefused :
    (queued (u32be 0xff ++ u64be 1 ++ [5] ++ [6])).resetPin = false ∧ [(5 : Byte)].length < 2 ^ 64 ∧
    (queued (u32be 0xff ++ u64be 1 ++ [5] ++ [6])).rx = u32be 0xff ++ u64be [(5 : Byte)].length ++ [5] ++ [6] ∧
    decodeWord 0xff [5] = .error .unassignedOpcode ∧ decodeWord 0x00010014 [5] = .error .reservedNonzero ∧
    decodeWord 0x00001521 [5] = .error .unusedNonzero := ⟨rfl, by decide, rfl, rfl, rfl, rfl⟩

theorem witness_QueuedFramesRunInOrder :
    (queued ([((0x14 : Word), [(1 : Byte)]), (0xff, [])].flatMap frameBytes ++ [3])).resetPin = false ∧
    (∀ f ∈ [((0x14 : Word), [(1 : Byte)]), (0xff, [])], f.2.length < 2 ^ 64) ∧
    (queued ([((0x14 : Word), [(1 : Byte)]), (0xff, [])].flatMap frameBytes ++ [3])).rx =
      [((0x14 : Word), [(1 : Byte)]), (0xff, [])].flatMap frameBytes ++ [3] := by decide

theorem witness_LaterBytesDoNotMatter : (queued (frame 0xff [])).resetPin = false ∧
    decodeFrame (queued (frame 0xff [])).rx ≠ .waiting ∧
    step (queued (frame 0xff [])) = .next (State.reset.refusedWith 0x00000102) := ⟨rfl, by decide, rfl⟩

theorem witness_ResponseFrameLayout : (Response.mk 0 [1, 2]).data.length < 2 ^ 64 := by decide

/-- A refused command, and a step on an illegal command word. -/
theorem witness_RefusedCommandWritesNothing :
    exec (.ctxFinal 0 []) .reset = .next (State.reset.refusedWith 0x00000104) ∧
    (State.reset.refusedWith 0x00000104).tx = State.reset.tx ++ [⟨0x00000104, []⟩] ∧ (0x00000104 : Word).toNat % 256 ≠ 0 ∧
    step (queued (frame 0xff [])) = .next (State.reset.refusedWith 0x00000102) ∧
    (State.reset.refusedWith 0x00000102).tx = (queued (frame 0xff [])).tx ++ [⟨0x00000102, []⟩] ∧
    (0x00000102 : Word).toNat % 256 ≠ 0 := ⟨rfl, rfl, by decide, rfl, rfl, by decide⟩

theorem witness_OtherCommandsChangeNoState :
    (∀ ca p, Instr.s2d [] ≠ .ctxInit ca p) ∧ (∀ ca p, Instr.s2d [] ≠ .ctxAbsorb ca p) ∧
    (∀ ca cb p, Instr.s2d [] ≠ .ctxClone ca cb p) ∧ exec (.s2d []) .reset = .next (State.reset.refusedWith 0x00000401) :=
  ⟨nofun, nofun, nofun, rfl⟩

theorem witness_RepeatedCommands : (Instr.hash []).isPure = true := rfl

theorem witness_OtherContextsUnchanged : nextOf (exec (.ctxInit 0 []) .reset) ≠ none ∧
    3 ≠ (Instr.ctxInit 0 []).fieldCA.toNat := by decide

/-- One example for each of the fifteen commands answers with status OK. -/
theorem witness_ResponseLengths :
    [Instr.add32 (hex 4 7), .rotr32 (hex 8 1), .expand (hex 64 0), .step (hex 40 0), .compress (hex 96 0), .pad (hex 8 0),
      .hash [], .ctxInit 1 [], .ctxAbsorb 0 [1], .ctxFinal 0 [], .ctxClone 1 0 [], .s2d (hex 32 0), .d2s (hex 32 0),
      .extend (hex 40 0), .forge (hex 8 0)].map
      (fun i => (nextOf (exec i (counted 0))).map fun t => t.tx.map Response.status) = List.replicate 15 (some [0]) := by
  decide +kernel

theorem witness_Add32Result :
    ([(1 : Word)] ≠ [] ∧ 4 * [(1 : Word)].length ≤ 2 ^ 61 - 1) ∧ (([] : Bytes).length = 0 ∧ [(1 : Byte)].length % 4 ≠ 0) ∧
    (overlong.length % 4 = 0 ∧ 2 ^ 61 - 1 < overlong.length) := by
  rw [overlong_length]
  decide

theorem witness_AddIgnoresOrder : [(1 : Word), 2].Perm [2, 1] := .swap 2 1 []

theorem witness_Rotr32Result :
    (0 < (1 : Word).toNat ∧ (1 : Word).toNat < 32) ∧ (0 < (31 : Word).toNat ∧ (31 : Word).toNat < 32) ∧
    ([1, 2, 3, 4, 5, 6, 7] : Bytes).length ≠ 8 ∧ (0 : Word).toNat = 0 ∧ 32 ≤ (32 : Word).toNat := by decide

theorem witness_ShiftIsFloorDivision : 0 < 1 ∧ 1 < 32 ∧ 32 - 1 ≤ 31 ∧ 0 < 31 ∧ 31 < 32 ∧ 32 - 31 ≤ 1 := by decide

theorem witness_ChooseAndMajority : 0 < 32 ∧ 31 < 32 := by decide

theorem witness_ConstantTables : 0 < 8 ∧ 7 < 8 ∧ 0 < 64 ∧ 63 < 64 := by decide

theorem witness_ExpandResult : (hex 64 1).length = 64 ∧ 0 < 16 ∧ 15 < 16 ∧ 16 ≤ 16 ∧ 16 ≤ 63 ∧ 63 < 64 ∧
    (hex 63 0).length ≠ 64 ∧ (hex 65 0).length ≠ 64 := by decide

theorem witness_StepResult :
    (0xfffffffb : Word) = 0xffffffff + bigSigma1 0xffffffff + ch 0xffffffff 0xffffffff 0xffffffff + 0xffffffff + 0xffffffff ∧
    (0xfffffffe : Word) = bigSigma0 0xffffffff + maj 0xffffffff 0xffffffff 0xffffffff ∧ (hex 39 0).length ≠ 40 ∧
    (hex 41 0).length ≠ 40 := by decide

theorem witness_CompressResult : (hex 64 1).length = 64 ∧ 0 < 64 ∧ 63 < 64 ∧ (hex 31 0).length < 32 ∧
    (32 ≤ (hex 32 0).length ∧ (hex 32 0).length ≠ 96) ∧ (32 ≤ (hex 97 0).length ∧ (hex 97 0).length ≠ 96) := by decide

theorem witness_FeedChains : (hex 64 1).length % 64 = 0 ∧ (hex 128 2).length % 64 = 0 := by decide

theorem witness_PadResult : 0 ≤ 2 ^ 61 - 1 ∧ 2 ^ 61 - 1 ≤ 2 ^ 61 - 1 ∧ (hex 7 0).length ≠ 8 ∧ (hex 9 0).length ≠ 8 ∧
    2 ^ 61 ≤ 2 ^ 61 ∧ 2 ^ 61 < 2 ^ 64 ∧ 2 ^ 61 ≤ 2 ^ 64 - 1 ∧ 2 ^ 64 - 1 < 2 ^ 64 := by decide

theorem witness_PaddingLaw : 55 ≤ 2 ^ 61 - 1 ∧ 55 % 64 ≤ 55 ∧ 56 ≤ 2 ^ 61 - 1 ∧ 56 ≤ 56 % 64 ∧
    0 < 1 ∧ 1 < padlen 56 - 8 ∧ 0 < 63 ∧ 63 < padlen 56 - 8 := by decide

theorem witness_CtxInitResult : (State.reset.ctxs[(3 : CtxIdx).toNat]? = some Context.blank) ∧
    State.reset.ctxs.length ≤ (4 : CtxIdx).toNat ∧ ((3 : CtxIdx).toNat < State.reset.ctxs.length ∧ [(1 : Byte)] ≠ []) ∧
    (1 : CtxIdx) ≠ 0 := by decide

theorem witness_AbsorbByteRule : ((63 : DWord) + 1).toNat % 64 = 0 ∧ ((62 : DWord) + 1).toNat % 64 ≠ 0 := by decide

/-- Accepted up to MAXLEN exactly; no such context; not valid; too long by itself; too long with the count; CB set. -/
theorem witness_CtxAbsorbResult :
    ((counted (2 ^ 61 - 2)).ctxs[(0 : CtxIdx).toNat]? = some (ctxOf IV [] (2 ^ 61 - 2)) ∧
      (ctxOf IV [] (2 ^ 61 - 2)).valid = true ∧ (ctxOf IV [] (2 ^ 61 - 2)).cnt.toNat + [(1 : Byte)].length ≤ 2 ^ 61 - 1) ∧
    (counted 0).ctxs.length ≤ (2 : CtxIdx).toNat ∧
    ((counted 0).ctxs[(1 : CtxIdx).toNat]? = some Context.blank ∧ Context.blank.valid = false) ∧
    2 ^ 61 - 1 < overlong.length ∧
    ((ctxOf IV [] (2 ^ 61 - 1)).valid = true ∧ [(1 : Byte)].length ≤ 2 ^ 61 - 1 ∧
      2 ^ 61 - 1 < (ctxOf IV [] (2 ^ 61 - 1)).cnt.toNat + [(1 : Byte)].length) ∧ (15 : CtxIdx) ≠ 0 := by
  rw [overlong_length]
  decide

theorem witness_AbsorbCountsBytes : (ctxOf IV [] (2 ^ 61 - 2)).cnt.toNat + [(1 : Byte)].length ≤ 2 ^ 61 - 1 := by decide

theorem witness_CtxFinalResult :
    ((counted (2 ^ 61 - 1)).ctxs[(0 : CtxIdx).toNat]? = some (ctxOf IV [] (2 ^ 61 - 1)) ∧
      (ctxOf IV [] (2 ^ 61 - 1)).valid = true) ∧
    ((ctxOf IV [] 55).cnt.toNat % 64 ≤ 55 ∧ 56 ≤ (ctxOf IV [] 56).cnt.toNat % 64) ∧
    (counted 0).ctxs.length ≤ (2 : CtxIdx).toNat ∧
    ((counted 0).ctxs[(1 : CtxIdx).toNat]? = some Context.blank ∧ Context.blank.valid = false) ∧
    [(1 : Byte)] ≠ [] ∧ (1 : CtxIdx) ≠ 0 := by decide

theorem witness_CtxCloneResult :
    ((1 : CtxIdx).toNat < (counted 9).ctxs.length ∧ (counted 9).ctxs[(0 : CtxIdx).toNat]? = some (ctxOf IV [] 9) ∧
      (ctxOf IV [] 9).valid = true) ∧
    (counted 9).ctxs.length ≤ (2 : CtxIdx).toNat ∧
    ((1 : CtxIdx).toNat < (counted 9).ctxs.length ∧ (counted 9).ctxs.length ≤ (15 : CtxIdx).toNat) ∧
    ((0 : CtxIdx).toNat < (counted 9).ctxs.length ∧ (counted 9).ctxs[(1 : CtxIdx).toNat]? = some Context.blank ∧
      Context.blank.valid = false) ∧ [(1 : Byte)] ≠ [] := by decide

theorem witness_HashResult : (List.replicate (2 ^ 61 - 1) (0 : Byte)).length ≤ 2 ^ 61 - 1 ∧ 2 ^ 61 - 1 < overlong.length := by
  rw [overlong_length, List.length_replicate]
  decide

theorem witness_SnapshotIsNonDestructive :
    runAll ([.s2d []] ++ [.ctxFinal 1 []]) .reset =
      .next ((State.reset.refusedWith 0x00000401).refusedWith 0x00000104) := rfl

theorem witness_ChunkingInvariance : (3 : CtxIdx).toNat < State.reset.ctxs.length ∧
    ([[0x61], [], [0x62, 0x63]] : List Bytes).flatten.length ≤ 2 ^ 61 - 1 := by decide

theorem witness_StreamingEqualsOneShot : (3 : CtxIdx).toNat < State.reset.ctxs.length ∧ (hex 65 0).length ≤ 2 ^ 61 - 1 := by
  decide

theorem witness_S2dResult : (hex 32 5).length = 32 ∧ (hex 31 5).length ≠ 32 ∧ (hex 33 5).length ≠ 32 := by decide

theorem witness_D2sResult : (hex 32 5).length = 32 ∧ (hex 28 5).length ≠ 32 ∧ (hex 36 5).length ≠ 32 := by decide

theorem witness_CodecRoundTrip : (hex 32 5).length = 32 ∧ digestToState (hex 32 5) = .ok ⟨0, 0, 0, 0, 0, 0, 0, 5⟩ ∧
    ([] : Bytes).length ≠ 32 := ⟨rfl, rfl, by decide⟩

/-- 95_test_vectors.md section 2.8: L = MAXLEN − 72 is accepted, MAXLEN and 2^61 are not. -/
theorem witness_ExtendResult :
    digestToState (hex 32 5) = .ok ⟨0, 0, 0, 0, 0, 0, 0, 5⟩ ∧
    (2 ^ 61 - 1 - 72 < 2 ^ 64 ∧ 2 ^ 61 - 1 - 72 ≤ 2 ^ 61 - 1 ∧
      2 ^ 61 - 1 - 72 + padlen (2 ^ 61 - 1 - 72) + ([] : Bytes).length ≤ 2 ^ 61 - 1) ∧
    (hex 39 0).length < 40 ∧ 2 ^ 61 - 1 < overlong.length ∧ (2 ^ 61 < 2 ^ 64 ∧ 2 ^ 61 - 1 < 2 ^ 61) ∧
    (40 + ([] : Bytes).length ≤ 2 ^ 61 - 1 ∧ 2 ^ 61 - 1 < 2 ^ 61 - 1 + padlen (2 ^ 61 - 1) + ([] : Bytes).length) :=
  ⟨rfl, by decide, by decide, by rw [overlong_length]; decide, by decide, by decide⟩

theorem witness_ForgeResult :
    8 + ([] : Bytes).length + ([] : Bytes).length ≤ 2 ^ 61 - 1 ∧ (hex 7 0).length < 8 ∧
    (3 < 2 ^ 64 ∧ (hex 2 0).length < 3) ∧
    (0 ≤ overlong.length ∧ overlong.length < 2 ^ 64 ∧ 2 ^ 61 - 1 < 8 + overlong.length) := by
  rw [overlong_length]
  decide

theorem witness_LengthExtensionIsCorrect : hello.length + padlen hello.length + (hex 3 0).length ≤ 2 ^ 61 - 1 := by decide

/-- Program P4: "hello", "!". -/
theorem witness_ExtendThroughCompress :
    helloDigest.length = 32 ∧ 5 ≤ 2 ^ 61 - 1 ∧ 65 = 5 + padlen 5 + [(0x21 : Byte)].length ∧ 65 ≤ 2 ^ 61 - 1 ∧
    [(0x21 : Byte)].length + padlen 65 = 64 := by decide

theorem witness_ResetDiscardsEverything : (queued (hex 5 1)).hostReset.resetPin = true := rfl

theorem witness_InvalidContextsAreRefused : (∀ x ∈ State.reset.ctxs, x.valid = false) ∧
    (0 : CtxIdx).toNat < State.reset.ctxs.length ∧ (3 : CtxIdx).toNat < State.reset.ctxs.length := by decide

theorem witness_InvariantAtReset : 2 ≤ 2 ∧ 2 ≤ 16 ∧ 16 ≤ 16 := by decide

/-- A context full to MAXLEN, a response, and a command queued. -/
theorem witness_EveryStepKeepsInvariant :
    let s := { ((counted (2 ^ 61 - 1)).refusedWith 0x00000205) with rx := frame 0x00000121 [] }
    s.Inv ∧ step s = .next ({ s with rx := [] }.refusedWith 0x00000104) := by
  refine ⟨⟨by decide, by decide, ?_, ?_⟩, rfl⟩
  · simp only [Context.CountInRange]
    decide
  · simp only [Response.Legal]
    decide

/-- Two states that differ in a stale byte of a valid context and in an invalid one's count. -/
theorem witness_StaleBytesAreUnobservable :
    let s := { counted 1 with rx := frame 0x00000121 [] }
    let t := { s with ctxs := [ctxOf IV [0, 9] 1, { Context.blank with cnt := 7 }] }
    s ≠ t ∧ s.Same t ∧ runSteps 1 s = .next ({ s with rx := [] }.refusedWith 0x00000104) := by
  refine ⟨by decide, ⟨?_, rfl, rfl, rfl⟩, rfl⟩
  refine .cons ⟨rfl, fun _ => ⟨rfl, rfl, ?_⟩⟩ (.cons ⟨rfl, fun h => by cases h⟩ .nil)
  decide

/-- Two frames, the second illegal, in pieces, a response read in between: every hypothesis, and the run has ended. -/
theorem witness_RunObservationIsTheFold :
    let fs : List (Word × Bytes) := [(0x31, []), (0xff, [5])]
    let es : List Event := [.send (hex 3 0), .step, .send (hex 9 0x310000000000000000), .step, .read, .send (frame 0xff [5]), .step]
    State.reset.rx = [] ∧ State.reset.resetPin = false ∧ (∀ f ∈ fs, f.2.length < 2 ^ 64) ∧ Event.reset ∉ es ∧
    sentBytes es = fs.flatMap frameBytes ∧ ((Run.start .reset).after es).map Run.ended = some true := by
  decide +kernel

/-- One whole frame, and then nothing, or 12 bytes of a frame of 13. -/
theorem witness_RunsEnd :
    let fs : List (Word × Bytes) := [(0x31, [])]
    let es (q : Bytes) : List Event := [.send (frame 0x31 []), .read, .send q]
    State.reset.rx = [] ∧ State.reset.resetPin = false ∧ (∀ f ∈ fs, f.2.length < 2 ^ 64) ∧ Event.reset ∉ es [] ∧ sentBytes (es []) = fs.flatMap frameBytes ++ [] ∧
    ((Run.start .reset).after (es [])).isSome = true ∧
    Event.reset ∉ es (hex 12 1) ∧ sentBytes (es (hex 12 1)) = fs.flatMap frameBytes ++ hex 12 1 ∧
    ((Run.start .reset).after (es (hex 12 1))).isSome = true ∧ hex 12 1 ≠ [] ∧ decodeFrame (hex 12 1) = .waiting := by
  decide +kernel

end Sys2Proof.Machine.Tests.Slice0
end

section
/-! What a command can do to the context file (10_state.md R106). -/

namespace Sys2Proof.Machine

theorem respond_eq_next_iff (D : Bytes) (s t : State) : respond D s = .next t ↔ s.emit ⟨okWord, D⟩ = t := by
  simp [respond]

theorem raise_eq_next_iff (c : Cause) (s t : State) : raise c s = .next t ↔ s.emit ⟨c.word, []⟩ = t := by
  simp [raise]

/-- R106: a command leaves the context file as it was, or writes the one context its CA field names. -/
theorem exec_ctxs_eq_or_set {i : Instr} {s t : State} (h : exec i s = .next t) :
    t.ctxs = s.ctxs ∨ ∃ x, t.ctxs = s.ctxs.set i.fieldCA.toNat x := by
  rcases exec_cases i s with ⟨c, he⟩ | ⟨D, -, he⟩ | ⟨ca, p, rfl, -, he⟩ | ⟨ca, p, rfl, -, he⟩ | ⟨ca, cb, p, rfl, -, he⟩
  case inl =>
    obtain rfl := (raise_eq_next_iff ..).1 (he.symm.trans h)
    exact .inl rfl
  case inr.inl =>
    obtain rfl := (respond_eq_next_iff ..).1 (he.symm.trans h)
    exact .inl rfl
  -- CTX_INIT, CTX_ABSORB and CTX_CLONE each write the context CA.
  all_goals
    obtain rfl := (respond_eq_next_iff ..).1 (he.symm.trans h)
    exact .inr ⟨_, rfl⟩

/-- Settles O17: the only context a command can write is number CA, and a write there changes no other. -/
theorem otherContextsUnchanged : Obligations.OtherContextsUnchanged := by
  intro i s t k h hk
  obtain ht | ⟨x, ht⟩ := exec_ctxs_eq_or_set h
  · rw [ht]
  · rw [ht, List.getElem?_set_ne hk.symm]

end Sys2Proof.Machine
end

section
/-! What a command reads (10_state.md R111; 20_memory.md R210): of the state, the context file and nothing else. -/

namespace Sys2Proof.Machine

/-- R543, R608: D2S is a guarded command too, the codec's refusal being its one test. -/
theorem execD2s_eq_guarded (p : Bytes) (s : State) :
    execD2s p s = guarded [(decide (p.length ≠ 32), .digestLength)] s
      (respond ((chainAt p 0).words.flatMap u32be) s) := by
  by_cases h : p.length = 32 <;> simp [execD2s, digestToState, guarded, h]

/-- The contexts that a command leaves and its response are determined by the contexts it finds: it reads neither the
bytes that have arrived, nor an earlier response, nor the reset line, and it writes none of them. -/
theorem exec_reads_only_ctxs (i : Instr) (s : State) : ∃ cs r, ∀ u : State,
    exec i { u with ctxs := s.ctxs } = .next { u with ctxs := cs, tx := u.tx ++ [r] } := by
  have of_guarded (ts : Tests) (D : Bytes) (cs : List Context) (h : ∀ u : State, exec i { u with ctxs := s.ctxs } =
      guarded ts { u with ctxs := s.ctxs } (respond D { u with ctxs := cs })) :
      ∃ cs r, ∀ u : State, exec i { u with ctxs := s.ctxs } = .next { u with ctxs := cs, tx := u.tx ++ [r] } := by
    cases hf : firstFailing ts with
    | none => exact ⟨cs, ⟨okWord, D⟩, fun u => (h u).trans (guarded_none _ _ _ hf)⟩
    | some c => exact ⟨s.ctxs, ⟨c.word, []⟩, fun u => (h u).trans (guarded_some _ _ _ _ hf)⟩
  cases i with
  | add32 p | rotr32 p | expand p | step p | compress p | pad p | hash p | s2d p | extend p | forge p =>
    exact of_guarded _ _ s.ctxs fun _ => rfl
  | d2s p => exact of_guarded _ _ s.ctxs fun _ => execD2s_eq_guarded p _
  | ctxInit ca p =>
    exact of_guarded (ctxInitTests ca p s) [] (s.setCtx ca (s.ctx ca).initialised).ctxs fun _ => rfl
  | ctxAbsorb ca p =>
    exact of_guarded (ctxAbsorbTests ca p s) [] (s.setCtx ca ((s.ctx ca).absorb p)).ctxs fun _ => rfl
  | ctxFinal ca p => exact of_guarded (ctxFinalTests ca p s) (s.ctx ca).finalDigest s.ctxs fun _ => rfl
  | ctxClone ca cb p => exact of_guarded (ctxCloneTests ca cb p s) [] (s.setCtx ca (s.ctx cb)).ctxs fun _ => rfl

/-- The same of a complete frame, whose command word may be illegal. -/
theorem execFrame_reads_only_ctxs (f : Word × Bytes) (s : State) : ∃ cs r, ∀ u : State,
    execFrame f { u with ctxs := s.ctxs } = .next { u with ctxs := cs, tx := u.tx ++ [r] } := by
  cases hd : decodeWord f.1 f.2 with
  | error e => exact ⟨s.ctxs, ⟨(Cause.ofIllegal e).word, []⟩, fun u => by simp only [execFrame, hd]; rfl⟩
  | ok i => simpa only [execFrame, hd] using exec_reads_only_ctxs i s

end Sys2Proof.Machine
end

section
/-! Frames run one at a time, in the order they arrived (20_memory.md R210). -/

namespace Sys2Proof.Machine

theorem runSteps_succ_of_next {s t : State} (h : step s = .next t) (k : Nat) :
    runSteps (k + 1) s = runSteps k t := by
  simp only [runSteps, h]

theorem runFrames_cons_of_next {f : Word × Bytes} {s t : State} (h : execFrame f s = .next t)
    (fs : List (Word × Bytes)) : runFrames (f :: fs) s = runFrames fs t := by
  simp only [runFrames, h]

/-- R300, R206: a step on a complete frame, legal or not, takes that frame whole and runs it. -/
theorem step_frame {s : State} {f : Word × Bytes} {rest : Bytes} (hp : s.resetPin = false)
    (hf : f.2.length < 2 ^ 64) (hrx : s.rx = frameBytes f ++ rest) : step s = execFrame f { s with rx := rest } := by
  have hd := decodeFrame_frame f.1 f.2 rest hf
  rw [← frameBytes, ← hrx] at hd
  cases hw : decodeWord f.1 f.2 <;> simp [step, execFrame, hp, hd, hw]

/-- Settles O9, by induction on the frames: a step is the front frame's rule, and that rule does not read the bytes
queued behind the frame. -/
theorem queuedFramesRunInOrder : Obligations.QueuedFramesRunInOrder := by
  intro s fs rest hp hfs hrx
  induction fs generalizing s with
  | nil =>
    obtain rfl : s.rx = rest := hrx
    rfl
  | cons f fs ih =>
    obtain ⟨hf, hfs⟩ := List.forall_mem_cons.1 hfs
    rw [List.flatMap_cons, List.append_assoc] at hrx
    obtain ⟨cs, r, hexec⟩ := execFrame_reads_only_ctxs f s
    have hstep := (step_frame hp hf hrx).trans (hexec { s with rx := fs.flatMap frameBytes ++ rest })
    calc runSteps (fs.length + 1) s
      _ = runSteps fs.length _ := runSteps_succ_of_next hstep _
      _ = runFrames fs { s with rx := rest, ctxs := cs, tx := s.tx ++ [r] } := ih _ hp hfs rfl
      _ = runFrames (f :: fs) { s with rx := rest } :=
        (runFrames_cons_of_next (hexec { s with rx := rest }) fs).symm

end Sys2Proof.Machine
end

section
/-! Commands issued twice (20_memory.md R207). -/

namespace Sys2Proof.Machine

/-- R207: a command that changes no state gives one response in every state with the same contexts. -/
theorem exec_eq_emit_of_isPure {i : Instr} (hi : i.isPure = true) (s : State) : ∃ r, ∀ u : State,
    exec i { u with ctxs := s.ctxs } = .next (State.emit { u with ctxs := s.ctxs } r) := by
  obtain ⟨cs, r, h⟩ := exec_reads_only_ctxs i s
  have hcs : cs = s.ctxs := by
    rcases exec_cases i s with ⟨c, he⟩ | ⟨D, -, he⟩ | ⟨_, _, rfl, -⟩ | ⟨_, _, rfl, -⟩ | ⟨_, _, _, rfl, -⟩
    · exact congrArg State.ctxs ((raise_eq_next_iff ..).1 (he.symm.trans (h s))).symm
    · exact congrArg State.ctxs ((respond_eq_next_iff ..).1 (he.symm.trans (h s))).symm
    -- the three commands that write a context are not pure
    all_goals cases hi
  exact ⟨r, hcs ▸ h⟩

/-- A guarded command run twice leaves the contexts as run once, when its tests do not change by its running and the
second write writes nothing new. -/
theorem guarded_twice_ctxs (tests : State → Tests) (write : State → State) (s : State)
    (hemit : ∀ r, tests (s.emit r) = tests s)
    (hwrite : firstFailing (tests s) = none → ∀ r, tests ((write s).emit r) = tests s ∧
      (write ((write s).emit r)).ctxs = (write s).ctxs) :
    ∃ t u, guarded (tests s) s (respond [] (write s)) = .next t ∧
      guarded (tests t) t (respond [] (write t)) = .next u ∧ u.ctxs = t.ctxs := by
  rcases guarded_cases (tests s) s (respond [] (write s)) with ⟨hn, hg⟩ | ⟨c, hc, hg⟩
  · obtain ⟨htests, hctxs⟩ := hwrite hn ⟨okWord, []⟩
    exact ⟨_, _, hg, guarded_none _ _ _ (htests ▸ hn), hctxs⟩
  · exact ⟨_, _, hg, guarded_some _ _ _ c (hemit _ ▸ hc), rfl⟩

theorem lt_nctx_of_ctxInitTests {ca : CtxIdx} {p : Bytes} {s : State} (h : firstFailing (ctxInitTests ca p s) = none) :
    ca.toNat < s.nctx := by
  simpa using (firstFailing_eq_none _).1 h _ (.head _)

theorem lt_nctx_of_ctxCloneTests {ca cb : CtxIdx} {p : Bytes} {s : State}
    (h : firstFailing (ctxCloneTests ca cb p s) = none) : ca.toNat < s.nctx := by
  simpa using (firstFailing_eq_none _).1 h _ (.head _)

@[simp] theorem Context.initialised_initialised (x : Context) : x.initialised.initialised = x.initialised := rfl

/-- R506: a clone leaves its source as it was, also where the source is its own destination. -/
theorem State.setCtx_ctx_source {s : State} {ca : CtxIdx} (h : ca.toNat < s.nctx) (cb : CtxIdx) :
    (s.setCtx ca (s.ctx cb)).ctx cb = s.ctx cb := by
  by_cases hc : ca = cb
  · subst hc
    exact State.setCtx_ctx_self s ca _ h
  · exact State.setCtx_ctx_ne s ca cb _ hc

/-- R207: CTX_INIT is idempotent. -/
theorem exec_ctxInit_twice (s : State) (ca : CtxIdx) (p : Bytes) : ∃ t u, exec (.ctxInit ca p) s = .next t ∧
    exec (.ctxInit ca p) t = .next u ∧ u.ctxs = t.ctxs := by
  refine guarded_twice_ctxs (ctxInitTests ca p) (fun s => s.setCtx ca (s.ctx ca).initialised) s (fun _ => rfl)
    fun hn r => ⟨by simp [ctxInitTests], ?_⟩
  have hself := State.setCtx_ctx_self s ca (s.ctx ca).initialised (lt_nctx_of_ctxInitTests hn)
  simp [hself]

/-- R207: CTX_CLONE is idempotent. -/
theorem exec_ctxClone_twice (s : State) (ca cb : CtxIdx) (p : Bytes) : ∃ t u, exec (.ctxClone ca cb p) s = .next t ∧
    exec (.ctxClone ca cb p) t = .next u ∧ u.ctxs = t.ctxs := by
  refine guarded_twice_ctxs (ctxCloneTests ca cb p) (fun s => s.setCtx ca (s.ctx cb)) s (fun _ => rfl) fun hn r => ?_
  have hsource := State.setCtx_ctx_source (lt_nctx_of_ctxCloneTests hn) cb
  constructor
  · simp [ctxCloneTests, hsource]
  · simp [hsource]

/-- The engine after reset and a CTX_INIT of context 0: there an absorbed byte counts each time. -/
def oneContext : State := State.reset.setCtx 0 Context.blank.initialised

/-- R207: CTX_ABSORB is not idempotent: one byte absorbed twice counts twice. -/
theorem exec_ctxAbsorb_twice_ne : ∃ t u, exec (.ctxAbsorb 0 [0x61]) oneContext = .next t ∧
    exec (.ctxAbsorb 0 [0x61]) t = .next u ∧ u.ctxs ≠ t.ctxs := by
  refine ⟨_, _, rfl, rfl, fun h => ?_⟩
  have hcnt := congrArg (List.map Context.cnt) h
  exact absurd hcnt (by decide)

/-- Settles O16: a pure command's response depends on the contexts alone, which it leaves; the second CTX_INIT or
CTX_CLONE writes what is there; CTX_ABSORB counts its bytes again. -/
theorem repeatedCommands : Obligations.RepeatedCommands := by
  refine ⟨fun i s hi => ?_, exec_ctxInit_twice, exec_ctxClone_twice, ?_⟩
  · obtain ⟨r, h⟩ := exec_eq_emit_of_isPure hi s
    exact ⟨r, h s, h (s.emit r)⟩
  · obtain ⟨t, u, ht, hu, hne⟩ := exec_ctxAbsorb_twice_ne
    exact ⟨oneContext, t, u, 0, [0x61], ht, hu, hne⟩

end Sys2Proof.Machine
end

section
/-! The decoder's ordered tests (30_encoding.md R303–R306): what each opcode stands for, and one rule per outcome of
`decodeWord`. -/

namespace Sys2Proof

/-- R304, R305: the unassigned opcodes are those outside the table of fifteen. -/
theorem commandOf_eq_none_iff (opc : Byte) (ca cb : CtxIdx) (p : Bytes) : commandOf opc ca cb p = none ↔
    opc.toNat ∉ [0x01, 0x02, 0x10, 0x11, 0x12, 0x13, 0x14, 0x20, 0x21, 0x22, 0x23, 0x30, 0x31, 0x40, 0x41] := by
  unfold commandOf
  split
  case h_16 => simp_all [BitVec.toNat_eq] -- the catch-all arm, with an inequality per assigned opcode
  all_goals simp

/-- R303, R304: the command of an assigned opcode has that opcode and the frame's payload, each context field that the
opcode uses, and 0 for each one that it does not use. -/
theorem fields_of_commandOf {opc : Byte} {ca cb : CtxIdx} {p : Bytes} {i : Instr}
    (h : commandOf opc ca cb p = some i) : i.opcode = opc ∧ i.payload = p ∧
    i.fieldCA = (if opcUsesCA opc then ca else 0) ∧ i.fieldCB = (if opcUsesCB opc then cb else 0) := by
  unfold commandOf at h
  split at h
  case h_16 => cases h
  all_goals
    cases h
    exact ⟨rfl, rfl, rfl, rfl⟩

theorem opcUsesCA_eq_false_iff (opc : Byte) : opcUsesCA opc = false ↔ opc.toNat ∉ [0x20, 0x21, 0x22, 0x23] := by
  simp [opcUsesCA, BitVec.toNat_eq, and_assoc]

/-- R303: the opcodes that do not use CB are those that do not use CA, and the three that use CA alone. -/
theorem opcUsesCB_eq_false_iff (opc : Byte) :
    opcUsesCB opc = false ↔ opcUsesCA opc = false ∨ opc.toNat ∈ [0x20, 0x21, 0x22] := by
  have clone : opcUsesCB opc = false ↔ opc.toNat ≠ 0x23 := by simp [opcUsesCB, BitVec.toNat_eq]
  simp only [clone, opcUsesCA_eq_false_iff, List.mem_cons, List.not_mem_nil, or_false]
  omega

section
variable {cmd : Word} {p : Bytes} {i : Instr}

/-- R306, the first test. -/
theorem decodeWord_of_unassigned (h : commandOf (cmdOpc cmd) (cmdCA cmd) (cmdCB cmd) p = none) :
    decodeWord cmd p = .error .unassignedOpcode := by
  simp only [decodeWord, h]

variable (h : commandOf (cmdOpc cmd) (cmdCA cmd) (cmdCB cmd) p = some i)
include h

/-- R306, the second test. -/
theorem decodeWord_of_reserved (hr : cmdRsv cmd ≠ 0) : decodeWord cmd p = .error .reservedNonzero := by
  simp only [decodeWord, h, if_pos hr]

/-- R306, the third test, failed by CA. -/
theorem decodeWord_of_unusedCA (hr : cmdRsv cmd = 0) (ha : opcUsesCA (cmdOpc cmd) = false) (hne : cmdCA cmd ≠ 0) :
    decodeWord cmd p = .error .unusedNonzero := by
  simp only [decodeWord, h, if_neg (not_not.2 hr), if_pos (And.intro ha hne)]

/-- R306, the third test, failed by CB: CA may fail it too, with the same outcome. -/
theorem decodeWord_of_unusedCB (hr : cmdRsv cmd = 0) (hb : opcUsesCB (cmdOpc cmd) = false) (hne : cmdCB cmd ≠ 0) :
    decodeWord cmd p = .error .unusedNonzero := by
  simp only [decodeWord, h, if_neg (not_not.2 hr), if_pos (And.intro hb hne), ite_self]

/-- R306: no test fails. The converse of `decodeWord_ok`. -/
theorem decodeWord_of_passes (hr : cmdRsv cmd = 0) (ha : opcUsesCA (cmdOpc cmd) = false → cmdCA cmd = 0)
    (hb : opcUsesCB (cmdOpc cmd) = false → cmdCB cmd = 0) : decodeWord cmd p = .ok i := by
  simp only [decodeWord, h, if_neg (not_not.2 hr), if_neg (not_and.2 fun hu => not_not.2 (ha hu)),
    if_neg (not_and.2 fun hu => not_not.2 (hb hu))]

end

/-- R303, R306: a decoded command carries the fields of its command word as they are, the unused ones being 0 there. -/
theorem fields_of_decodeWord_ok {cmd : Word} {p : Bytes} {i : Instr} (h : decodeWord cmd p = .ok i) :
    i.opcode = cmdOpc cmd ∧ i.fieldCA = cmdCA cmd ∧ i.fieldCB = cmdCB cmd ∧ i.payload = p := by
  obtain ⟨hc, -, ha, hb⟩ := decodeWord_ok cmd p i h
  obtain ⟨hopc, hp, hca, hcb⟩ := fields_of_commandOf hc
  refine ⟨hopc, hca.trans ?_, hcb.trans ?_, hp⟩
  · cases hu : opcUsesCA (cmdOpc cmd)
    · exact (ha hu).symm
    · rfl
  · cases hu : opcUsesCB (cmdOpc cmd)
    · exact (hb hu).symm
    · rfl

end Sys2Proof

namespace Sys2Proof.Machine

/-- Settles O2: the fields as numbers are the decoder's own fields, and each clause is one of the rules of `decodeWord`;
in the third clause CB may fail the test as well as CA, since an opcode that does not use CA does not use CB. -/
theorem decoderTestsInOrder : Obligations.DecoderTestsInOrder := by
  rintro cmd p _ _ _ _ rfl rfl rfl rfl
  obtain ⟨hopc, hca, hcb, hrsv⟩ := cmd_fields_toNat cmd
  rw [← hopc, ← hca, ← hcb, ← hrsv]
  have unassigned := commandOf_eq_none_iff (cmdOpc cmd) (cmdCA cmd) (cmdCB cmd) p
  have usesCA := opcUsesCA_eq_false_iff (cmdOpc cmd)
  have usesCB := opcUsesCB_eq_false_iff (cmdOpc cmd)
  refine ⟨fun hn => decodeWord_of_unassigned (unassigned.2 hn), fun hm => ?_, by decide⟩
  obtain ⟨i, hi⟩ := Option.ne_none_iff_exists'.1 fun hn => unassigned.1 hn hm
  refine ⟨fun hr => ?_, fun hr hu hne => ?_, fun hr hu hne => ?_, fun hr hnone honlyCA => ?_⟩
  · exact decodeWord_of_reserved hi (BitVec.toNat_ne.2 hr)
  · have ha := usesCA.2 hu
    obtain hne | hne := hne
    · exact decodeWord_of_unusedCA hi (BitVec.eq_of_toNat_eq hr) ha (BitVec.toNat_ne.2 hne)
    · exact decodeWord_of_unusedCB hi (BitVec.eq_of_toNat_eq hr) (usesCB.2 (.inl ha)) (BitVec.toNat_ne.2 hne)
  · exact decodeWord_of_unusedCB hi (BitVec.eq_of_toNat_eq hr) (usesCB.2 (.inr hu)) (BitVec.toNat_ne.2 hne)
  · have hok : decodeWord cmd p = .ok i := by
      refine decodeWord_of_passes hi (BitVec.eq_of_toNat_eq hr) (fun ha => ?_) (fun hb => ?_)
      · exact BitVec.eq_of_toNat_eq (hnone (usesCA.1 ha)).1
      · obtain ha | hm := usesCB.1 hb
        · exact BitVec.eq_of_toNat_eq (hnone (usesCA.1 ha)).2
        · exact BitVec.eq_of_toNat_eq (honlyCA hm)
    obtain ⟨fopc, fca, fcb, fp⟩ := fields_of_decodeWord_ok hok
    exact ⟨i, hok, congrArg _ fopc, congrArg _ fca, congrArg _ fcb, fp⟩

end Sys2Proof.Machine
end

section
/-! Word operations (40_wordops.md): the operand fields, the ordered tests and the results of ADD32 and ROTR32, and the
logical right shift. -/

namespace Sys2Proof.Machine

/-! ### The status words of the refusals (60_exceptions.md R601, R606, R607) -/

@[simp] theorem Cause.word_payloadShape : Cause.payloadShape.word = 0x00000401 := by decide
@[simp] theorem Cause.word_rotationAmount : Cause.rotationAmount.word = 0x00000301 := by decide
@[simp] theorem Cause.word_lengthOver : Cause.lengthOver.word = 0x00000105 := by decide

/-! ### ADD32 -/

theorem cmdWord_add32 (p : Bytes) : (Instr.add32 p).cmdWord = 0x00000001 := by
  change packWord 0 0 0 0x01 = _
  decide

/-- R310: the terms of a payload of words are the words. -/
@[simp] theorem termsOf_flatMap_u32be (ts : List Word) : termsOf (ts.flatMap u32be) = ts := by
  have hlen : (termsOf (ts.flatMap u32be)).length = ts.length := by simp [termsOf]
  refine List.ext_getElem hlen fun j _ hj => ?_
  have hterm := be32_flatMap_u32be ts [] j hj
  rw [List.append_nil] at hterm
  simpa [termsOf] using hterm

/-- R403, R607, R608: the shape of the payload is tested before its length. -/
theorem firstFailing_add32Tests (p : Bytes) : firstFailing (add32Tests p) =
    if p.length = 0 ∨ p.length % 4 ≠ 0 then some .payloadShape
    else if Config.maxLen < p.length then some .lengthOver else none := by
  simp only [add32Tests, firstFailing_decide, firstFailing_nil]

theorem exec_add32_of_passes {p : Bytes} (h : firstFailing (add32Tests p) = none) (s : State) :
    exec (.add32 p) s = .next (s.answered (u32be (add32 (termsOf p)))) :=
  guarded_respond _ _ _ _ h

theorem exec_add32_of_fails {p : Bytes} {c : Cause} (h : firstFailing (add32Tests p) = some c) (s : State) :
    exec (.add32 p) s = .next (s.refusedWith c.word) :=
  guarded_refused _ _ _ _ h

/-- Settles O20: the terms read back from the payload, and each other clause is the first failing test. -/
theorem add32Result : Obligations.Add32Result := by
  refine fun s => ⟨cmdWord_add32, fun ts hne hmax => ?_, fun p hshape => ?_, fun p hwords hlong => ?_⟩
  · have hpos := List.length_pos_of_ne_nil hne
    have hpass : firstFailing (add32Tests (ts.flatMap u32be)) = none := by
      rw [firstFailing_add32Tests, length_flatMap_u32be, if_neg (by omega), maxLen_eq, if_neg (by omega)]
    rw [exec_add32_of_passes hpass, termsOf_flatMap_u32be, add32]
  · have hfail : firstFailing (add32Tests p) = some .payloadShape := by
      rw [firstFailing_add32Tests, if_pos hshape]
    rw [exec_add32_of_fails hfail, Cause.word_payloadShape]
  · have hfail : firstFailing (add32Tests p) = some .lengthOver := by
      rw [firstFailing_add32Tests, if_neg (by omega), maxLen_eq, if_pos hlong]
    rw [exec_add32_of_fails hfail, Cause.word_lengthOver]

/-- R401: the sum over the natural numbers, reduced modulo 2^32. -/
theorem toNat_add32 (ts : List Word) : (add32 ts).toNat = (ts.map BitVec.toNat).sum % 2 ^ 32 :=
  BitVec.toNat_ofNat ..

/-- R401: the sum over the natural numbers does not depend on the order of its terms. -/
theorem add32_perm {ts us : List Word} (h : ts.Perm us) : add32 ts = add32 us :=
  congrArg (BitVec.ofNat 32) (h.map BitVec.toNat).sum_nat

/-- Settles O21. -/
theorem addIgnoresOrder : Obligations.AddIgnoresOrder :=
  fun ts _ => ⟨toNat_add32 ts, add32_perm⟩

/-! ### The right shift and ROTR32 -/

/-- R405: the right shift is floor division. -/
theorem toNat_shr (x : Word) (n : Nat) : (shr x n).toNat = x.toNat / 2 ^ n := by
  rw [shr, BitVec.toNat_ushiftRight, Nat.shiftRight_eq_div_pow]

/-- R405: bit i of the right shift is bit n + i of x. -/
@[simp] theorem getLsbD_shr (x : Word) (n i : Nat) : (shr x n).getLsbD i = x.getLsbD (n + i) :=
  BitVec.getLsbD_ushiftRight ..

/-- R405: the right shift fills with zeros. -/
theorem getLsbD_shr_of_le (x : Word) {n i : Nat} (h : 32 - n ≤ i) : (shr x n).getLsbD i = false := by
  rw [getLsbD_shr]
  exact BitVec.getLsbD_of_ge _ _ (by omega)

/-- Settles O23. -/
theorem shiftIsFloorDivision : Obligations.ShiftIsFloorDivision :=
  fun x n _ _ => ⟨toNat_shr x n, fun _ => getLsbD_shr_of_le x⟩

/-- R402: bit i of the rotation is bit (i + n) mod 32 of x: the right shift gives the bits below 32 − n, where the left
shift is 0, and the left shift gives the bits from there on, where the right shift is 0. -/
theorem getLsbD_rotr (x : Word) {n i : Nat} (hpos : 0 < n) (hn : n < 32) (hi : i < 32) :
    (rotr x n).getLsbD i = x.getLsbD ((i + n) % 32) := by
  rw [rotr, BitVec.getLsbD_or, BitVec.getLsbD_shiftLeft]
  by_cases hlow : i < 32 - n
  · have hindex : (i + n) % 32 = n + i := by omega
    simp [hlow, hindex]
  · have hindex : (i + n) % 32 = i - (32 - n) := by omega
    rw [getLsbD_shr_of_le x (Nat.le_of_not_lt hlow), hindex]
    simp [hlow, hi]

theorem cmdWord_rotr32 (p : Bytes) : (Instr.rotr32 p).cmdWord = 0x00000002 := by
  change packWord 0 0 0 0x02 = _
  decide

/-- R310: the operands of a ROTR32 payload of two words. -/
theorem rotrValue_words (x n : Word) : rotrValue (u32be x ++ u32be n) = x :=
  be32_middle [] (u32be n) x 0 rfl

theorem rotrAmount_words (x n : Word) : rotrAmount (u32be x ++ u32be n) = n.toNat := by
  have h := be32_middle (u32be x) [] n 4 (by simp)
  rw [List.append_nil] at h
  rw [rotrAmount, h]

/-- R404, R608: PLEN is tested before the amount. -/
theorem firstFailing_rotr32Tests (p : Bytes) : firstFailing (rotr32Tests p) =
    if p.length ≠ 8 then some .payloadShape
    else if ¬ (0 < rotrAmount p ∧ rotrAmount p < 32) then some .rotationAmount else none := by
  simp only [rotr32Tests, firstFailing_decide, firstFailing_nil]

/-- R404: on two words only the amount can fail. -/
theorem firstFailing_rotr32Tests_words (x n : Word) : firstFailing (rotr32Tests (u32be x ++ u32be n)) =
    if ¬ (0 < n.toNat ∧ n.toNat < 32) then some .rotationAmount else none := by
  rw [firstFailing_rotr32Tests, if_neg (by simp), rotrAmount_words]

theorem exec_rotr32_of_passes {p : Bytes} (h : firstFailing (rotr32Tests p) = none) (s : State) :
    exec (.rotr32 p) s = .next (s.answered (u32be (rotr (rotrValue p) (rotrAmount p)))) :=
  guarded_respond _ _ _ _ h

theorem exec_rotr32_of_fails {p : Bytes} {c : Cause} (h : firstFailing (rotr32Tests p) = some c) (s : State) :
    exec (.rotr32 p) s = .next (s.refusedWith c.word) :=
  guarded_refused _ _ _ _ h

/-- Settles O22: the word is `rotr x n`, whose bits `getLsbD_rotr` gives, and each refusal is the first failing test. -/
theorem rotr32Result : Obligations.Rotr32Result := by
  refine fun s => ⟨cmdWord_rotr32, fun x n hpos hn => ?_, fun p hlen => ?_, fun x n hamount => ?_⟩
  · refine ⟨rotr x n.toNat, rfl, fun i hi => getLsbD_rotr x hpos hn hi, ?_⟩
    have hpass : firstFailing (rotr32Tests (u32be x ++ u32be n)) = none := by
      rw [firstFailing_rotr32Tests_words, if_neg (not_not.2 ⟨hpos, hn⟩)]
    rw [exec_rotr32_of_passes hpass, rotrValue_words, rotrAmount_words]
  · have hfail : firstFailing (rotr32Tests p) = some .payloadShape := by
      rw [firstFailing_rotr32Tests, if_pos hlen]
    rw [exec_rotr32_of_fails hfail, Cause.word_payloadShape]
  · have hfail : firstFailing (rotr32Tests (u32be x ++ u32be n)) = some .rotationAmount := by
      rw [firstFailing_rotr32Tests_words, if_pos (by omega)]
    rw [exec_rotr32_of_fails hfail, Cause.word_rotationAmount]

end Sys2Proof.Machine
end

section
/-! The message schedule (41_schedule.md): the four sigma functions, the recurrence of the schedule, and EXPAND. -/

namespace Sys2Proof.Machine

/-! ### Rotation and addition, in Lean's own terms -/

/-- R402: an amount in range is not reduced by Lean's rotation, whose formula is then the rule's. -/
theorem rotr_eq_rotateRight (x : Word) {n : Nat} (h : n < 32) : rotr x n = x.rotateRight n := by
  rw [BitVec.rotateRight_def, Nat.mod_eq_of_lt h]
  rfl

@[simp] theorem add32_nil : add32 [] = 0 := rfl

/-- R401: the sum is taken modulo 2^32 term by term. -/
@[simp] theorem add32_cons (t : Word) (ts : List Word) : add32 (t :: ts) = t + add32 ts := by
  apply BitVec.eq_of_toNat_eq
  simp [toNat_add32]

/-! ### The sigma functions -/

/-- Settles O24: every amount is in range, so each rotation is Lean's own. -/
theorem sigmaFunctions : Obligations.SigmaFunctions := by
  intro x
  simp (disch := decide) only [smallSigma0, smallSigma1, bigSigma1, bigSigma0, shr, rotr_eq_rotateRight, and_self]

/-! ### The schedule (R422) -/

/-- The loop only appends: the list it starts from stays in front. -/
@[simp] theorem take_length_expandFrom (n : Nat) (W : List Word) : (expandFrom n W).take W.length = W := by
  induction n generalizing W with
  | zero => exact List.take_length
  | succ n ih => simpa [expandFrom, List.take_take] using congrArg (List.take W.length) (ih (W ++ [nextWord W]))

/-- Each word the loop adds is computed from the words before it. -/
theorem getD_expandFrom_eq_nextWord (n : Nat) (W : List Word) {i : Nat} (hi : W.length ≤ i)
    (hn : i < W.length + n) : (expandFrom n W).getD i 0 = nextWord ((expandFrom n W).take i) := by
  induction n generalizing W with
  | zero => omega
  | succ n ih =>
    obtain rfl | hlt := hi.eq_or_lt
    · rw [take_length_expandFrom, expandFrom, expandFrom_getD _ _ _ (by simp)]
      simp
    · exact ih _ (by simpa using hlt) (by simp; omega)

theorem getD_take {l : List Word} {i j : Nat} (h : j < i) : (l.take i).getD j 0 = l.getD j 0 := by
  rw [List.getD_eq_getElem?_getD, List.getElem?_take_of_lt h, ← List.getD_eq_getElem?_getD]

/-- R422: the four earlier words that word i is the sum of. -/
theorem nextWord_take {W : List Word} {i : Nat} (h16 : 16 ≤ i) (hi : i ≤ W.length) : nextWord (W.take i) =
    W.getD (i - 16) 0 + smallSigma0 (W.getD (i - 15) 0) + W.getD (i - 7) 0 + smallSigma1 (W.getD (i - 2) 0) := by
  have back (k : Nat) (hk : 0 < k) : (W.take i).getD (i - k) 0 = W.getD (i - k) 0 := getD_take (by omega)
  rw [nextWord, List.length_take_of_le hi, back 16 (by decide), back 15 (by decide), back 7 (by decide),
    back 2 (by decide)]
  simp [BitVec.add_assoc]

/-- R422: words 0..15 of the schedule are the block's. -/
theorem u32be_getD_expand {block : Bytes} (hlen : block.length = 64) {i : Nat} (hi : i < 16) :
    u32be ((expand block).getD i 0) = (block.drop (4 * i)).take 4 := by
  have hword : (blockWords block).getD i 0 = be32 block (4 * i) := by simp [blockWords, hi]
  rw [expand, expandFrom_getD _ _ _ (by simpa using hi), hword, u32be_be32 _ _ (by omega), slice,
    Nat.add_sub_cancel_left]

/-- R422: the recurrence of the later words. -/
theorem getD_expand (block : Bytes) {i : Nat} (h16 : 16 ≤ i) (hi : i < 64) : (expand block).getD i 0 =
    (expand block).getD (i - 16) 0 + smallSigma0 ((expand block).getD (i - 15) 0) +
      (expand block).getD (i - 7) 0 + smallSigma1 ((expand block).getD (i - 2) 0) := by
  rw [← nextWord_take h16 (by simpa using hi.le)]
  exact getD_expandFrom_eq_nextWord 48 (blockWords block) (by simpa using h16) (by simpa using hi)

/-! ### EXPAND (R423) -/

@[simp] theorem Cause.word_blockLength : Cause.blockLength.word = 0x00000101 := by decide

theorem cmdWord_expand (p : Bytes) : (Instr.expand p).cmdWord = 0x00000010 := by
  change packWord 0 0 0 0x10 = _
  decide

theorem firstFailing_expandTests (p : Bytes) :
    firstFailing (expandTests p) = if p.length ≠ 64 then some .blockLength else none := by
  simp only [expandTests, firstFailing_decide, firstFailing_nil]

theorem exec_expand_of_length {block : Bytes} (h : block.length = 64) (s : State) :
    exec (.expand block) s = .next (s.answered ((expand block).flatMap u32be)) :=
  guarded_respond _ _ _ _ ((firstFailing_expandTests block).trans (if_neg (not_not.2 h)))

theorem exec_expand_of_length_ne {p : Bytes} (h : p.length ≠ 64) (s : State) :
    exec (.expand p) s = .next (s.refusedWith 0x00000101) := by
  rw [← Cause.word_blockLength]
  exact guarded_refused _ _ _ _ ((firstFailing_expandTests p).trans (if_pos h))

/-- Settles O27: the schedule is `expand block`, whose first words are the block's and whose later words obey the
recurrence. -/
theorem expandResult : Obligations.ExpandResult := by
  refine fun s => ⟨cmdWord_expand, fun block hlen => ?_, fun p hlen => exec_expand_of_length_ne hlen s⟩
  exact ⟨expand block, length_expand block, fun i hi => u32be_getD_expand hlen hi, fun i => getD_expand block,
    exec_expand_of_length hlen s⟩

end Sys2Proof.Machine
end

section
/-! The round function (42_round.md): what the bits of ch and maj are, one round as sums of words, and STEP. -/

namespace Sys2Proof.Machine

/-! ### ch and maj (R442, R443) -/

/-- R442: x's bit chooses between y's and z's. -/
theorem getLsbD_ch (x y z : Word) {i : Nat} (hi : i < 32) :
    (ch x y z).getLsbD i = if x.getLsbD i = true then y.getLsbD i else z.getLsbD i := by
  have hbit : (ch x y z).getLsbD i =
      ((x.getLsbD i && y.getLsbD i) ^^ (!x.getLsbD i && z.getLsbD i)) := by
    simp [ch, hi]
  rw [hbit]
  cases x.getLsbD i <;> simp

/-- R443: a bit is set where at least two of the three input bits are. -/
theorem getLsbD_maj (x y z : Word) (i : Nat) : (maj x y z).getLsbD i =
    decide (2 ≤ (x.getLsbD i).toNat + (y.getLsbD i).toNat + (z.getLsbD i).toNat) := by
  have hbit : (maj x y z).getLsbD i =
      ((x.getLsbD i && y.getLsbD i) ^^ (x.getLsbD i && z.getLsbD i) ^^ (y.getLsbD i && z.getLsbD i)) := by
    simp [maj]
  have majority : ∀ p q r : Bool, ((p && q) ^^ (p && r) ^^ (q && r)) = decide (2 ≤ p.toNat + q.toNat + r.toNat) := by
    decide
  rw [hbit, majority]

/-- Settles O25: the formulas are the definitions. -/
theorem chooseAndMajority : Obligations.ChooseAndMajority :=
  fun x y z i hi => ⟨rfl, rfl, getLsbD_ch x y z hi, getLsbD_maj x y z i⟩

/-! ### One round (R444) -/

/-- R444: the eight outputs from the inputs, every `add32` a sum of words. -/
theorem words_roundStep {S : Chain} {k w t1 t2 : Word} (h1 : t1 = S.h + bigSigma1 S.e + ch S.e S.f S.g + k + w)
    (h2 : t2 = bigSigma0 S.a + maj S.a S.b S.c) :
    (roundStep S k w).words = [t1 + t2, S.a, S.b, S.c, S.d + t1, S.e, S.f, S.g] := by
  have e1 : add32 [S.h, bigSigma1 S.e, ch S.e S.f S.g, k, w] = t1 := by simp [h1, BitVec.add_assoc]
  have e2 : add32 [bigSigma0 S.a, maj S.a S.b S.c] = t2 := by simp [h2]
  simp [roundStep, Chain.words, e1, e2]

/-! ### STEP (R446) -/

theorem cmdWord_step (p : Bytes) : (Instr.step p).cmdWord = 0x00000011 := by
  change packWord 0 0 0 0x11 = _
  decide

theorem firstFailing_stepTests (p : Bytes) :
    firstFailing (stepTests p) = if p.length ≠ 40 then some .payloadShape else none := by
  simp only [stepTests, firstFailing_decide, firstFailing_nil]

theorem exec_step_of_length {p : Bytes} (h : p.length = 40) (s : State) : exec (.step p) s =
    .next (s.answered ((roundStep (chainAt p 0) (be32 p 32) (be32 p 36)).words.flatMap u32be)) :=
  guarded_respond _ _ _ _ ((firstFailing_stepTests p).trans (if_neg (not_not.2 h)))

theorem exec_step_of_length_ne {p : Bytes} (h : p.length ≠ 40) (s : State) :
    exec (.step p) s = .next (s.refusedWith 0x00000401) := by
  rw [← Cause.word_payloadShape]
  exact guarded_refused _ _ _ _ ((firstFailing_stepTests p).trans (if_pos h))

/-- R310, R446: the operands read back from a payload that holds a State, k and w. -/
theorem exec_step_words (S : Chain) (k w : Word) (s : State) :
    exec (.step (stateToDigest S ++ u32be k ++ u32be w)) s =
      .next (s.answered ((roundStep S k w).words.flatMap u32be)) := by
  have hS : chainAt (stateToDigest S ++ u32be k ++ u32be w) 0 = S := by
    rw [List.append_assoc, chainAt_stateToDigest]
  have hk : be32 (stateToDigest S ++ u32be k ++ u32be w) 32 = k := be32_middle _ _ k 32 (by simp)
  have hw : be32 (stateToDigest S ++ u32be k ++ u32be w) 36 = w := by
    simpa using be32_middle (stateToDigest S ++ u32be k) [] w 36 (by simp)
  rw [exec_step_of_length (by simp), hS, hk, hw]

/-- Settles O28: the ten words of the payload are a State, k and w, and the answer is one round from them. -/
theorem stepResult : Obligations.StepResult := by
  refine fun s => ⟨cmdWord_step, fun a b c d e f g h k w t1 t2 h1 h2 => ?_, fun p hlen => exec_step_of_length_ne hlen s⟩
  have hpayload : [a, b, c, d, e, f, g, h, k, w].flatMap u32be =
      stateToDigest ⟨a, b, c, d, e, f, g, h⟩ ++ u32be k ++ u32be w := by
    simp [stateToDigest, Chain.words]
  rw [hpayload, exec_step_words, words_roundStep (S := ⟨a, b, c, d, e, f, g, h⟩) h1 h2]

end Sys2Proof.Machine
end

section
/-! The compression function (43_compression.md): the states between its rounds, the feed-forward, and COMPRESS. -/

namespace Sys2Proof.Machine

/-! ### The 64 rounds and the feed-forward (R462) -/

/-- R462: V after the first `n` rounds of `compress(S, block)`. -/
def chainAfterRounds (S : Chain) (block : Bytes) (n : Nat) : Chain := rounds S ((K.zip (expand block)).take n)

theorem rounds_concat (V : Chain) (kws : List (Word × Word)) (kw : Word × Word) :
    rounds V (kws ++ [kw]) = roundStep (rounds V kws) kw.1 kw.2 := by
  simp [rounds]

@[simp] theorem chainAfterRounds_zero (S : Chain) (block : Bytes) : chainAfterRounds S block 0 = S := rfl

/-- R462: round i, with K[i] and W[i]. -/
theorem chainAfterRounds_succ (S : Chain) (block : Bytes) {i : Nat} (hi : i < 64) : chainAfterRounds S block (i + 1) =
    roundStep (chainAfterRounds S block i) (K.getD i 0) ((expand block).getD i 0) := by
  have hK : i < K.length := by simpa using hi
  have hW : i < (expand block).length := by simpa using hi
  have hround : (K.zip (expand block)).take (i + 1) =
      (K.zip (expand block)).take i ++ [(K.getD i 0, (expand block).getD i 0)] := by
    rw [List.take_succ_eq_append_getElem (by simpa using hi), List.getElem_zip, List.getD_eq_getElem _ _ hK,
      List.getD_eq_getElem _ _ hW]
  rw [chainAfterRounds, hround, rounds_concat, chainAfterRounds]

/-- R462: there are 64 rounds, and the feed-forward adds their result to the State they began with. -/
theorem compress_eq_addWords (S : Chain) (block : Bytes) : compress S block = S.addWords (chainAfterRounds S block 64) := by
  rw [chainAfterRounds, List.take_of_length_le (by simp), compress]

/-- R401, R462: the feed-forward is addition word by word. -/
theorem words_addWords (S V : Chain) : (S.addWords V).words = List.zipWith (· + ·) S.words V.words := by
  simp [Chain.addWords, Chain.words]

/-! ### COMPRESS (R464) -/

theorem cmdWord_compress (p : Bytes) : (Instr.compress p).cmdWord = 0x00000012 := by
  change packWord 0 0 0 0x12 = _
  decide

/-- R464, R608: an incomplete State is reported before a wrong block length. -/
theorem firstFailing_compressTests (p : Bytes) : firstFailing (compressTests p) =
    if p.length < 32 then some .payloadShape else if p.length ≠ 96 then some .blockLength else none := by
  simp only [compressTests, firstFailing_decide, firstFailing_nil]

theorem exec_compress_of_passes {p : Bytes} (h : firstFailing (compressTests p) = none) (s : State) :
    exec (.compress p) s = .next (s.answered ((compress (chainAt p 0) (slice p 32 96)).words.flatMap u32be)) :=
  guarded_respond _ _ _ _ h

theorem exec_compress_of_fails {p : Bytes} {c : Cause} (h : firstFailing (compressTests p) = some c) (s : State) :
    exec (.compress p) s = .next (s.refusedWith c.word) :=
  guarded_refused _ _ _ _ h

/-- R310, R464: the operands read back from a payload that holds a State and a block. -/
theorem exec_compress_operands (S : Chain) {block : Bytes} (hlen : block.length = 64) (s : State) :
    exec (.compress (stateToDigest S ++ block)) s = .next (s.answered ((compress S block).words.flatMap u32be)) := by
  have hpass : firstFailing (compressTests (stateToDigest S ++ block)) = none := by
    simp [firstFailing_compressTests, hlen]
  have hblock : slice (stateToDigest S ++ block) 32 96 = block := by
    simpa using slice_middle (stateToDigest S) block [] 32 96 (by simp) (by simp [hlen])
  rw [exec_compress_of_passes hpass, chainAt_stateToDigest, hblock]

/-- Settles O29: V is the State after each number of rounds, its feed-forward is the answer, and each refusal is the
first failing test. -/
theorem compressResult : Obligations.CompressResult := by
  refine fun s => ⟨cmdWord_compress, fun S block hlen => ?_, fun p hshort => ?_, fun p hstate hlen => ?_⟩
  · refine ⟨chainAfterRounds S block, chainAfterRounds_zero S block, fun i hi => chainAfterRounds_succ S block hi, ?_⟩
    rw [← words_addWords, ← compress_eq_addWords]
    exact exec_compress_operands S hlen s
  · have hfail : firstFailing (compressTests p) = some .payloadShape := by
      rw [firstFailing_compressTests, if_pos hshort]
    rw [exec_compress_of_fails hfail, Cause.word_payloadShape]
  · have hfail : firstFailing (compressTests p) = some .blockLength := by
      rw [firstFailing_compressTests, if_neg (Nat.not_lt.2 hstate), if_pos hlen]
    rw [exec_compress_of_fails hfail, Cause.word_blockLength]

end Sys2Proof.Machine
end

section
/-! The padding formatter (44_padding.md): the number of zero bytes, the layout of the padding, and PAD. -/

namespace Sys2Proof.Machine

/-! ### The number of zero bytes (R480) -/

theorem natCast_padZeros (n : Nat) : (padZeros n : Int) = (55 - (n : Int)) % 64 :=
  Int.toNat_of_nonneg (Int.emod_nonneg _ (by decide))

theorem natCast_padlen (n : Nat) : (padlen n : Int) = 9 + (55 - (n : Int)) % 64 := by
  rw [padlen, Nat.cast_add, natCast_padZeros, Nat.cast_ofNat]

/-- R480: the message, 0x80, the zeros and the length field are whole blocks. -/
theorem padZeros_fills (n : Nat) : (n + 1 + padZeros n + 8) % 64 = 0 := by
  have h := add_padlen_mod n
  rw [padlen] at h
  omega

/-- R480: two numbers of zeros that fill the last block differ by a multiple of 64, and `padZeros n` is below 64. -/
theorem padZeros_le_of_fills {n y : Nat} (h : (n + 1 + y + 8) % 64 = 0) : padZeros n ≤ y := by
  have hlt := padZeros_lt n
  have hfills := padZeros_fills n
  omega

/-! ### The padding law (R481) -/

theorem le_padlen (n : Nat) : 9 ≤ padlen n := Nat.le_add_right ..

theorem padlen_le (n : Nat) : padlen n ≤ 72 := by
  have h := padZeros_lt n
  rw [padlen]
  omega

/-- R481: the padding fits the last block of the message. -/
theorem padlen_of_mod_le {n : Nat} (h : n % 64 ≤ 55) : padlen n = 64 - n % 64 := by
  have hcast := natCast_padlen n
  omega

/-- R481: the padding needs one further block. -/
theorem padlen_of_le_mod {n : Nat} (h : 56 ≤ n % 64) : padlen n = 128 - n % 64 := by
  have hcast := natCast_padlen n
  omega

/-- R481: the last eight bytes are the bit length, which fits them. -/
theorem be64_pad {n : Nat} (h : n ≤ 2 ^ 61 - 1) : be64 (pad n) (padlen n - 8) = 8 * n := by
  have hoffset : padlen n - 8 = ([0x80] ++ zeros (padZeros n)).length := by
    simp [padlen]
    omega
  simpa [pad] using be64_middle ([0x80] ++ zeros (padZeros n)) [] (8 * n) _ hoffset (by omega)

/-- R481: every byte between the first and the length field is a zero. -/
theorem getElem?_pad_of_between {n i : Nat} (hpos : 0 < i) (hi : i < padlen n - 8) : (pad n)[i]? = some 0 := by
  obtain ⟨j, rfl⟩ := Nat.exists_eq_add_of_lt hpos
  have hj : j < padZeros n := by
    rw [padlen] at hi
    omega
  simp [pad, zeros, List.getElem?_append_left, hj]

/-- Settles O32: each clause is a lemma about `padlen` or `pad`. -/
theorem paddingLaw : Obligations.PaddingLaw :=
  fun n hmax => ⟨length_pad n, natCast_padlen n, le_padlen n, padlen_le n, add_padlen_mod n, be64_pad hmax, rfl,
    fun _ => getElem?_pad_of_between, padlen_of_mod_le, padlen_of_le_mod⟩

/-! ### PAD (R483) -/

theorem cmdWord_pad (p : Bytes) : (Instr.pad p).cmdWord = 0x00000013 := by
  change packWord 0 0 0 0x13 = _
  decide

/-- R310: the length that eight bytes of payload spell. -/
theorem be64_u64be {n : Nat} (h : n < 2 ^ 64) : be64 (u64be n) 0 = n := by
  simpa using be64_middle [] [] n 0 rfl h

/-- R483, R608: PLEN is tested before the length the payload spells. -/
theorem firstFailing_padTests (p : Bytes) : firstFailing (padTests p) =
    if p.length ≠ 8 then some .payloadShape else if Config.maxLen < be64 p 0 then some .lengthOver else none := by
  simp only [padTests, firstFailing_decide, firstFailing_nil]

/-- R483: on eight bytes only the length they spell can fail. -/
theorem firstFailing_padTests_u64be {n : Nat} (h : n < 2 ^ 64) : firstFailing (padTests (u64be n)) =
    if 2 ^ 61 - 1 < n then some .lengthOver else none := by
  rw [firstFailing_padTests, if_neg (by simp), be64_u64be h, maxLen_eq]

theorem exec_pad_of_passes {p : Bytes} (h : firstFailing (padTests p) = none) (s : State) :
    exec (.pad p) s = .next (s.answered (pad (be64 p 0))) :=
  guarded_respond _ _ _ _ h

theorem exec_pad_of_fails {p : Bytes} {c : Cause} (h : firstFailing (padTests p) = some c) (s : State) :
    exec (.pad p) s = .next (s.refusedWith c.word) :=
  guarded_refused _ _ _ _ h

/-- Settles O31: the number of zeros is `padZeros n`, the least that fills the last block, and each refusal is the first
failing test. -/
theorem padResult : Obligations.PadResult := by
  refine fun s => ⟨cmdWord_pad, fun n hmax => ?_, fun p hlen => ?_, fun n hlong hn => ?_⟩
  · have hn : n < 2 ^ 64 := by omega
    have hpass : firstFailing (padTests (u64be n)) = none := by
      rw [firstFailing_padTests_u64be hn, if_neg (Nat.not_lt.2 hmax)]
    refine ⟨padZeros n, natCast_padZeros n, padZeros_fills n, fun y => padZeros_le_of_fills, ?_⟩
    rw [exec_pad_of_passes hpass, be64_u64be hn, pad, zeros]
  · have hfail : firstFailing (padTests p) = some .payloadShape := by
      rw [firstFailing_padTests, if_pos hlen]
    rw [exec_pad_of_fails hfail, Cause.word_payloadShape]
  · have hfail : firstFailing (padTests (u64be n)) = some .lengthOver := by
      rw [firstFailing_padTests_u64be hn, if_pos (by omega)]
    rw [exec_pad_of_fails hfail, Cause.word_lengthOver]

end Sys2Proof.Machine
end

section
/-! What the context commands and HASH share (30_encoding.md R302, R303; 60_exceptions.md R604–R608): a command word
with context fields, one rule per test of a guarded command, and the status words of their refusals. -/

namespace Sys2Proof.Machine

/-! ### Command words with context fields -/

/-- R302: a command word without reserved bits, as a number. -/
theorem toNat_packWord (cb ca : CtxIdx) (opc : Byte) :
    (packWord 0 cb ca opc).toNat = opc.toNat + cb.toNat * 2 ^ 12 + ca.toNat * 2 ^ 8 := by
  obtain ⟨hopc, hca, hcb, hrsv⟩ := cmd_fields_toNat (packWord 0 cb ca opc)
  rw [cmdOpc_packWord] at hopc
  rw [cmdCA_packWord] at hca
  rw [cmdCB_packWord] at hcb
  rw [cmdRsv_packWord] at hrsv
  change 0 = _ at hrsv
  omega

/-- R303: an opcode with a target only leaves the field CB 0. -/
theorem toNat_packWord_target (ca : CtxIdx) (opc : Byte) :
    (packWord 0 0 ca opc).toNat = opc.toNat + ca.toNat * 2 ^ 8 :=
  (toNat_packWord 0 ca opc).trans (by simp)

/-- R303, R306: an assigned opcode that does not use CB is refused with CB set. -/
theorem decodeWord_packWord_of_unusedCB {cb ca : CtxIdx} {opc : Byte} {p : Bytes} {i : Instr}
    (hi : commandOf opc ca cb p = some i) (hb : opcUsesCB opc = false) (hne : cb ≠ 0) :
    decodeWord (packWord 0 cb ca opc) p = .error .unusedNonzero :=
  decodeWord_of_unusedCB (i := i) (by simpa using hi) (by simp) (by simpa using hb) (by simpa using hne)

/-! ### The tests of a guarded command, one at a time -/

theorem respond_eq_answered (D : Bytes) (s : State) : respond D s = .next (s.answered D) := rfl

@[simp] theorem guarded_nil (s : State) (body : Outcome) : guarded [] s body = body := rfl

/-- R608: a test that fails refuses the command with its own status word; one that passes leaves it to the later ones. -/
theorem guarded_decide (P : Prop) [Decidable P] (c : Cause) (ts : Tests) (s : State) (body : Outcome) :
    guarded ((decide P, c) :: ts) s body = if P then .next (s.refusedWith c.word) else guarded ts s body := by
  split
  case isTrue h => exact guarded_refused _ _ _ c (by simp [h])
  case isFalse h => simp [guarded, h]

/-- R605: the test for a valid context. -/
theorem guarded_not (b : Bool) (c : Cause) (ts : Tests) (s : State) (body : Outcome) :
    guarded ((!b, c) :: ts) s body = if b = false then .next (s.refusedWith c.word) else guarded ts s body := by
  cases b <;> rfl

@[simp] theorem Cause.word_badTarget : Cause.badTarget.word = 0x00000103 := by decide
@[simp] theorem Cause.word_badSource : Cause.badSource.word = 0x00000203 := by decide
@[simp] theorem Cause.word_targetInvalid : Cause.targetInvalid.word = 0x00000104 := by decide
@[simp] theorem Cause.word_sourceInvalid : Cause.sourceInvalid.word = 0x00000204 := by decide
@[simp] theorem Cause.word_countOver : Cause.countOver.word = 0x00000205 := by decide

end Sys2Proof.Machine
end

section
/-! The context commands and HASH (45_streaming.md R500–R508): what each answers, in the order of its tests. -/

namespace Sys2Proof.Machine

/-! ### CTX_INIT (R500) -/

theorem exec_ctxInit (ca : CtxIdx) (p : Bytes) (s : State) : exec (.ctxInit ca p) s =
    if s.nctx ≤ ca.toNat then .next (s.refusedWith 0x00000103)
    else if p.length ≠ 0 then .next (s.refusedWith 0x00000401)
    else .next ((s.setCtx ca (s.ctx ca).initialised).answered []) := by
  simp only [exec, execCtxInit, ctxInitTests, guarded_decide, guarded_nil, respond_eq_answered, Cause.word_badTarget,
    Cause.word_payloadShape]

/-- R500: CTX_INIT on a context of the file. -/
theorem exec_ctxInit_of_lt {s : State} {ca : CtxIdx} (h : ca.toNat < s.nctx) : exec (.ctxInit ca []) s =
    .next ((s.setCtx ca (s.ctx ca).initialised).answered []) := by
  rw [exec_ctxInit, if_neg (Nat.not_le.2 h), if_neg (by simp)]

/-- Settles O33: the effect is `Context.initialised`, and each refusal is the first failing test. -/
theorem ctxInitResult : Obligations.CtxInitResult := by
  refine fun s ca => ⟨fun p => toNat_packWord_target ca 0x20, fun x hx => ?_, fun p hout => ?_,
    fun p (hin : ca.toNat < s.nctx) hp => ?_, fun cb p hcb => decodeWord_packWord_of_unusedCB rfl rfl hcb⟩
  · rw [exec_ctxInit_of_lt (s.lt_nctx_of_getElem? ca x hx), s.ctx_of_getElem? ca x hx]
    rfl
  · exact (exec_ctxInit ca p s).trans (if_pos hout)
  · rw [exec_ctxInit, if_neg (Nat.not_le.2 hin), if_pos (by simpa using hp)]

/-! ### CTX_ABSORB (R502) -/

theorem exec_ctxAbsorb (ca : CtxIdx) (p : Bytes) (s : State) : exec (.ctxAbsorb ca p) s =
    if s.nctx ≤ ca.toNat then .next (s.refusedWith 0x00000103)
    else if (s.ctx ca).valid = false then .next (s.refusedWith 0x00000104)
    else if 2 ^ 61 - 1 < p.length then .next (s.refusedWith 0x00000105)
    else if 2 ^ 61 - 1 < (s.ctx ca).cnt.toNat + p.length then .next (s.refusedWith 0x00000205)
    else .next ((s.setCtx ca ((s.ctx ca).absorb p)).answered []) := by
  simp only [exec, execCtxAbsorb, ctxAbsorbTests, guarded_decide, guarded_not, guarded_nil, respond_eq_answered,
    Cause.word_badTarget, Cause.word_targetInvalid, Cause.word_lengthOver, Cause.word_countOver]
  rw [maxLen_eq]

/-- R502: CTX_ABSORB on a valid context of the file, within MAXLEN. -/
theorem exec_ctxAbsorb_of_valid {s : State} {ca : CtxIdx} {p : Bytes} (h : ca.toNat < s.nctx)
    (hv : (s.ctx ca).valid = true) (hmax : (s.ctx ca).cnt.toNat + p.length ≤ 2 ^ 61 - 1) :
    exec (.ctxAbsorb ca p) s = .next ((s.setCtx ca ((s.ctx ca).absorb p)).answered []) := by
  rw [exec_ctxAbsorb, if_neg (Nat.not_le.2 h), if_neg (by simp [hv]), if_neg (by omega), if_neg (by omega)]

/-- Settles O35: the effect is `Context.absorb`, and each refusal is the first failing test. -/
theorem ctxAbsorbResult : Obligations.CtxAbsorbResult := by
  refine fun s ca p => ⟨toNat_packWord_target ca 0x21, fun x hx hv hmax => ?_, fun hout => ?_, fun x hx hv => ?_,
    fun x hx hv hlong => ?_, fun x hx hv hp hover => ?_, fun cb hcb => decodeWord_packWord_of_unusedCB rfl rfl hcb⟩
  case refine_2 => exact (exec_ctxAbsorb ca p s).trans (if_pos hout)
  all_goals
    have hin := s.lt_nctx_of_getElem? ca x hx
    obtain rfl := s.ctx_of_getElem? ca x hx
  · exact exec_ctxAbsorb_of_valid hin hv hmax
  · rw [exec_ctxAbsorb, if_neg (Nat.not_le.2 hin), if_pos hv]
  · rw [exec_ctxAbsorb, if_neg (Nat.not_le.2 hin), if_neg (by simp [hv]), if_pos hlong]
  · rw [exec_ctxAbsorb, if_neg (Nat.not_le.2 hin), if_neg (by simp [hv]), if_neg (Nat.not_lt.2 hp), if_pos hover]

/-! ### CTX_FINAL (R503, R504) -/

theorem exec_ctxFinal (ca : CtxIdx) (p : Bytes) (s : State) : exec (.ctxFinal ca p) s =
    if s.nctx ≤ ca.toNat then .next (s.refusedWith 0x00000103)
    else if (s.ctx ca).valid = false then .next (s.refusedWith 0x00000104)
    else if p.length ≠ 0 then .next (s.refusedWith 0x00000401)
    else .next (s.answered (s.ctx ca).finalDigest) := by
  simp only [exec, execCtxFinal, ctxFinalTests, guarded_decide, guarded_not, guarded_nil, respond_eq_answered,
    Cause.word_badTarget, Cause.word_targetInvalid, Cause.word_payloadShape]

/-- R504: CTX_FINAL on a valid context of the file. -/
theorem exec_ctxFinal_of_valid {s : State} {ca : CtxIdx} {x : Context} (hx : s.ctxs[ca.toNat]? = some x)
    (hv : x.valid = true) : exec (.ctxFinal ca []) s = .next (s.answered x.finalDigest) := by
  obtain rfl := s.ctx_of_getElem? ca x hx
  rw [exec_ctxFinal, if_neg (Nat.not_le.2 (s.lt_nctx_of_getElem? ca _ hx)), if_neg (by simp [hv]), if_neg (by simp)]

/-- R503: the final buffer is as long as the partial block and its padding. -/
theorem length_tail (x : Context) : x.tail.length = x.cnt.toNat % 64 + padlen x.cnt.toNat := by
  have hfill : x.fill < 64 := Nat.mod_lt _ (by decide)
  rw [Context.tail, List.length_append, length_pad, List.length_take_of_le (by simpa using hfill.le), Context.fill]

/-- Settles O37: the result is `Context.finalDigest`, the length of the final buffer is the padding law's, and each
refusal is the first failing test. -/
theorem ctxFinalResult : Obligations.CtxFinalResult := by
  refine fun s ca p => ⟨toNat_packWord_target ca 0x22, fun x hx hv => exec_ctxFinal_of_valid hx hv,
    fun x => ⟨fun hone => ?_, fun htwo => ?_⟩, fun hout => ?_, fun x hx hv => ?_, fun x hx hv hp => ?_,
    fun cb hcb => decodeWord_packWord_of_unusedCB rfl rfl hcb⟩
  · refine (length_tail x).trans ?_
    rw [padlen_of_mod_le hone]
    omega
  · refine (length_tail x).trans ?_
    rw [padlen_of_le_mod htwo]
    omega
  · exact (exec_ctxFinal ca p s).trans (if_pos hout)
  all_goals
    have hin := s.lt_nctx_of_getElem? ca x hx
    obtain rfl := s.ctx_of_getElem? ca x hx
  · rw [exec_ctxFinal, if_neg (Nat.not_le.2 hin), if_pos hv]
  · rw [exec_ctxFinal, if_neg (Nat.not_le.2 hin), if_neg (by simp [hv]), if_pos (by simpa using hp)]

/-! ### CTX_CLONE (R506) -/

theorem exec_ctxClone (ca cb : CtxIdx) (p : Bytes) (s : State) : exec (.ctxClone ca cb p) s =
    if s.nctx ≤ ca.toNat then .next (s.refusedWith 0x00000103)
    else if s.nctx ≤ cb.toNat then .next (s.refusedWith 0x00000203)
    else if (s.ctx cb).valid = false then .next (s.refusedWith 0x00000204)
    else if p.length ≠ 0 then .next (s.refusedWith 0x00000401)
    else .next ((s.setCtx ca (s.ctx cb)).answered []) := by
  simp only [exec, execCtxClone, ctxCloneTests, guarded_decide, guarded_not, guarded_nil, respond_eq_answered,
    Cause.word_badTarget, Cause.word_badSource, Cause.word_sourceInvalid, Cause.word_payloadShape]

/-- Settles O38: the effect is one write of the source's context, and each refusal is the first failing test. -/
theorem ctxCloneResult : Obligations.CtxCloneResult := by
  refine fun s ca cb p => ⟨toNat_packWord cb ca 0x23, fun x (hca : ca.toNat < s.nctx) hx hv => ?_,
    fun (hout : s.nctx ≤ ca.toNat) => ?_, fun (hca : ca.toNat < s.nctx) (hout : s.nctx ≤ cb.toNat) => ?_,
    fun x (hca : ca.toNat < s.nctx) hx hv => ?_, fun x (hca : ca.toNat < s.nctx) hx hv hp => ?_⟩
  case refine_2 => rw [exec_ctxClone, if_pos hout]
  case refine_3 => rw [exec_ctxClone, if_neg (Nat.not_le.2 hca), if_pos hout]
  all_goals
    have hcb := s.lt_nctx_of_getElem? cb x hx
    obtain rfl := s.ctx_of_getElem? cb x hx
    rw [exec_ctxClone, if_neg (Nat.not_le.2 hca), if_neg (Nat.not_le.2 hcb)]
  · rw [if_neg (by simp [hv]), if_neg (by simp)]
    rfl
  · rw [if_pos hv]
  · rw [if_neg (by simp [hv]), if_pos (by simpa using hp)]

/-! ### HASH (R508) -/

theorem cmdWord_hash (p : Bytes) : (Instr.hash p).cmdWord = 0x00000014 := by
  change packWord 0 0 0 0x14 = _
  decide

theorem exec_hash (m : Bytes) (s : State) : exec (.hash m) s =
    if 2 ^ 61 - 1 < m.length then .next (s.refusedWith 0x00000105) else .next (s.answered (hash m)) := by
  simp only [exec, execHash, hashTests, guarded_decide, guarded_nil, respond_eq_answered, Cause.word_lengthOver]
  rw [maxLen_eq]

/-- R508: HASH of a message within MAXLEN. -/
theorem exec_hash_of_le {m : Bytes} (h : m.length ≤ 2 ^ 61 - 1) (s : State) :
    exec (.hash m) s = .next (s.answered (hash m)) := by
  rw [exec_hash, if_neg (Nat.not_lt.2 h)]

/-- Settles O39: the one test is the message's length. -/
theorem hashResult : Obligations.HashResult :=
  fun s m => ⟨cmdWord_hash m, fun hmax => exec_hash_of_le hmax s, fun hlong => (exec_hash m s).trans (if_pos hlong)⟩

end Sys2Proof.Machine
end

section
/-! Absorbing bytes (45_streaming.md R501, R502): what one byte changes of a context, and the count. -/

namespace Sys2Proof.Machine

@[simp] theorem Context.toList_putByte (x : Context) (b : Byte) :
    (x.putByte b).toList = x.buf.toList.set (x.cnt.toNat % 64) b := by
  rw [Context.putByte, Vector.toList_set]

/-- R501: the byte that fills the buffer has it compressed. -/
theorem Context.absorbByte_h_of_full {x : Context} (h : (x.cnt + 1).toNat % 64 = 0) (b : Byte) :
    (x.absorbByte b).h = compress x.h (x.buf.toList.set (x.cnt.toNat % 64) b) := by
  rw [← Context.toList_putByte]
  exact if_pos h

/-- R501: any other byte leaves H. -/
theorem Context.absorbByte_h_of_not_full {x : Context} (h : (x.cnt + 1).toNat % 64 ≠ 0) (b : Byte) :
    (x.absorbByte b).h = x.h := if_neg h

/-- Settles O34: a field at a time, H by whether the byte fills the buffer. -/
theorem absorbByteRule : Obligations.AbsorbByteRule := fun x b =>
  ⟨x.toList_putByte b, x.absorbByte_cnt b, x.absorbByte_valid b, fun hfull => Context.absorbByte_h_of_full hfull b,
    fun hpart => Context.absorbByte_h_of_not_full hpart b⟩

/-- R105: one byte within the 64 bits of CNT. -/
theorem Context.toNat_cnt_succ {x : Context} (h : x.cnt.toNat + 1 < 2 ^ 64) : (x.cnt + 1).toNat = x.cnt.toNat + 1 := by
  rw [BitVec.toNat_add]
  exact Nat.mod_eq_of_lt h

/-- R105: CNT counts the bytes absorbed, as long as their number fits its 64 bits. -/
theorem Context.toNat_cnt_absorb {x : Context} {m : Bytes} (h : x.cnt.toNat + m.length < 2 ^ 64) :
    (x.absorb m).cnt.toNat = x.cnt.toNat + m.length := by
  induction m generalizing x with
  | nil => rfl
  | cons b m ih =>
    rw [List.length_cons] at h
    have hcnt : (x.absorbByte b).cnt.toNat = x.cnt.toNat + 1 := Context.toNat_cnt_succ (by omega)
    rw [Context.absorb_cons, ih (by omega), hcnt, List.length_cons]
    omega

end Sys2Proof.Machine
end

section
/-! Sequences of commands (20_memory.md R210), and a snapshot taken in the middle of one (45_streaming.md R505). -/

namespace Sys2Proof.Machine

theorem runAll_cons_of_next {i : Instr} {s t : State} (h : exec i s = .next t) (is : List Instr) :
    runAll (i :: is) s = runAll is t := by
  simp only [runAll, h]

theorem runAll_append_of_next {is : List Instr} {s t : State} (h : runAll is s = .next t) (js : List Instr) :
    runAll (is ++ js) s = runAll js t := by
  induction is generalizing s with
  | nil =>
    cases h
    rfl
  | cons i is ih =>
    obtain ⟨cs, r, hexec⟩ := exec_reads_only_ctxs i s
    have hi := hexec s
    rw [List.cons_append, runAll_cons_of_next hi]
    exact ih ((runAll_cons_of_next hi is).symm.trans h)

/-- R111, R210: the contexts that a sequence of commands leaves and its responses, one for each command, are determined
by the contexts it finds. -/
theorem runAll_reads_only_ctxs (is : List Instr) (s : State) : ∃ cs rs, rs.length = is.length ∧ ∀ u : State,
    runAll is { u with ctxs := s.ctxs } = .next { u with ctxs := cs, tx := u.tx ++ rs } := by
  induction is generalizing s with
  | nil => exact ⟨s.ctxs, [], rfl, fun u => by simp [runAll]⟩
  | cons i is ih =>
    obtain ⟨cs, r, hi⟩ := exec_reads_only_ctxs i s
    obtain ⟨cs', rs, hlen, his⟩ := ih { s with ctxs := cs }
    refine ⟨cs', r :: rs, congrArg (· + 1) hlen, fun u => ?_⟩
    rw [runAll_cons_of_next (hi u)]
    simpa using his { u with tx := u.tx ++ [r] }

/-- Settles O40: the commands after the CTX_FINAL find the contexts that they find without it, since it is pure. -/
theorem snapshotIsNonDestructive : Obligations.SnapshotIsNonDestructive := by
  intro s t xs ys ca p h
  obtain ⟨cs, as, has, hxs⟩ := runAll_reads_only_ctxs xs s
  let mid : State := { s with ctxs := cs, tx := s.tx ++ as }
  obtain ⟨r, hfinal⟩ := exec_eq_emit_of_isPure (i := .ctxFinal ca p) rfl mid
  obtain ⟨ds, bs, hbs, hys⟩ := runAll_reads_only_ctxs ys mid
  have ht := (runAll_append_of_next (hxs s) ys).symm.trans h
  obtain rfl : ({ mid with ctxs := ds, tx := mid.tx ++ bs } : State) = t := by simpa using (hys mid).symm.trans ht
  refine ⟨{ mid with ctxs := ds, tx := mid.tx ++ [r] ++ bs }, r, as, bs, ?_, rfl, rfl, has, hbs, rfl, rfl⟩
  calc runAll (xs ++ [.ctxFinal ca p] ++ ys) s
    _ = runAll (.ctxFinal ca p :: ys) mid := by
      rw [List.append_assoc]
      exact runAll_append_of_next (hxs s) _
    _ = runAll ys (mid.emit r) := runAll_cons_of_next (hfinal mid) ys
    _ = _ := hys (mid.emit r)

end Sys2Proof.Machine
end

section
/-! A message absorbed in chunks (45_streaming.md R507). -/

namespace Sys2Proof.Machine

@[simp] theorem State.answered_ctxs (s : State) (D : Bytes) : (s.answered D).ctxs = s.ctxs := rfl
@[simp] theorem State.answered_nctx (s : State) (D : Bytes) : (s.answered D).nctx = s.nctx := rfl
@[simp] theorem State.answered_ctx (s : State) (D : Bytes) (c : CtxIdx) : (s.answered D).ctx c = s.ctx c := rfl

/-- R502, R507: absorbing chunks one after the other absorbs the message that they make up. -/
theorem runAll_ctxAbsorbs {s : State} {c : CtxIdx} {x : Context} {ms : List Bytes} (hx : s.ctxs[c.toNat]? = some x)
    (hv : x.valid = true) (hmax : x.cnt.toNat + ms.flatten.length ≤ 2 ^ 61 - 1) :
    ∃ t, runAll (ms.map (.ctxAbsorb c ·)) s = .next t ∧ t.ctxs = s.ctxs.set c.toNat (x.absorb ms.flatten) := by
  induction ms generalizing s x with
  | nil =>
    obtain ⟨_, rfl⟩ := List.getElem?_eq_some_iff.1 hx
    exact ⟨s, rfl, by simp⟩
  | cons m ms ih =>
    rw [List.flatten_cons, List.length_append] at hmax
    have hin := s.lt_nctx_of_getElem? c x hx
    obtain rfl := s.ctx_of_getElem? c x hx
    have hcnt := Context.toNat_cnt_absorb (x := s.ctx c) (m := m) (by omega)
    obtain ⟨t, ht, hctxs⟩ := ih (s := (s.setCtx c ((s.ctx c).absorb m)).answered []) (x := (s.ctx c).absorb m)
      (by simpa using List.getElem?_set_self hin) (by simpa using hv) (by omega)
    refine ⟨t, ?_, ?_⟩
    · rw [List.map_cons, runAll_cons_of_next (exec_ctxAbsorb_of_valid hin hv (by omega)), ht]
    · rw [hctxs]
      simp [Context.absorb_append]

/-- R500, R507: CTX_INIT and absorbing chunks leave one context changed: the initialised one with their message absorbed. -/
theorem runAll_ctxInit_ctxAbsorbs {s : State} {c : CtxIdx} {ms : List Bytes} (hc : c.toNat < s.nctx)
    (hmax : ms.flatten.length ≤ 2 ^ 61 - 1) : ∃ t, runAll (.ctxInit c [] :: ms.map (.ctxAbsorb c ·)) s = .next t ∧
      t.ctxs = s.ctxs.set c.toNat ((s.ctx c).initialised.absorb ms.flatten) := by
  obtain ⟨t, ht, hctxs⟩ := runAll_ctxAbsorbs (s := (s.setCtx c (s.ctx c).initialised).answered [])
    (x := (s.ctx c).initialised) (ms := ms) (by simpa using List.getElem?_set_self hc) rfl (by simpa using hmax)
  refine ⟨t, (runAll_cons_of_next (exec_ctxInit_of_lt hc) _).trans ht, ?_⟩
  rw [hctxs]
  simp

/-- Settles O41: both sequences leave the message absorbed into the initialised context, the second as one chunk. -/
theorem chunkingInvariance : Obligations.ChunkingInvariance := by
  intro s c ms hc hmax
  obtain ⟨t, ht, htctxs⟩ := runAll_ctxInit_ctxAbsorbs hc hmax
  obtain ⟨u, hu, huctxs⟩ := runAll_ctxInit_ctxAbsorbs (ms := [ms.flatten]) hc (by simpa using hmax)
  rw [List.flatten_singleton] at huctxs
  have hctxs := htctxs.trans huctxs.symm
  have hx : t.ctxs[c.toNat]? = some ((s.ctx c).initialised.absorb ms.flatten) := by
    rw [htctxs, List.getElem?_set_self hc]
  exact ⟨t, u, ht, hu, hctxs, _, exec_ctxFinal_of_valid hx (by simp), exec_ctxFinal_of_valid (hctxs ▸ hx) (by simp)⟩

end Sys2Proof.Machine
end

section
/-! Streaming equals one-shot (45_streaming.md R509): the message that a context holds. -/

namespace Sys2Proof.Machine

/-- R465: whole blocks fed before other bytes are fed first. -/
theorem feed_append (S : Chain) {X : Bytes} (hX : X.length % 64 = 0) (Y : Bytes) :
    feed S (X ++ Y) = feed (feed S X) Y := by
  obtain ⟨n, hn⟩ := Nat.dvd_of_mod_eq_zero hX
  induction n generalizing S X with
  | zero =>
    obtain rfl : X = [] := List.eq_nil_of_length_eq_zero hn
    rfl
  | succ n ih =>
    have hblock : (X.take 64).length = 64 := List.length_take_of_le (by omega)
    have hrest : (X.drop 64).length = 64 * n := by
      rw [List.length_drop]
      omega
    rw [← List.take_append_drop 64 X, List.append_assoc, feed_block _ _ _ hblock, feed_block _ _ _ hblock,
      ih _ (by omega) hrest]

/-- R462: feeding one block is compressing it. -/
theorem feed_one_block (S : Chain) {B : Bytes} (h : B.length = 64) : feed S B = compress S B := by
  simpa using feed_block S B [] h

/-- R103–R105, R509: what a context is after absorbing a message: its whole blocks `X` are in H, the rest `R` of it is
in BUF, and CNT is its length. -/
structure Context.Holds (x : Context) (X R : Bytes) : Prop where
  blocks : X.length % 64 = 0
  rest_lt : R.length < 64
  h : x.h = feed IV X
  cnt : x.cnt.toNat = X.length + R.length
  buf : x.buf.toList.take R.length = R

theorem Context.holds_initialised (x : Context) : x.initialised.Holds [] [] where
  blocks := rfl
  rest_lt := by decide
  h := rfl
  cnt := rfl
  buf := rfl

/-- A byte written behind the first `R.length` bytes of a list. -/
theorem take_succ_set_of_take_eq {l R : Bytes} {b : Byte} (hR : l.take R.length = R) (hlt : R.length < l.length) :
    (l.set R.length b).take (R.length + 1) = R ++ [b] := by
  rw [List.take_set, List.take_succ_eq_append_getElem hlt, hR]
  simp

namespace Context.Holds
variable {x : Context} {X R : Bytes} (hx : x.Holds X R) {b : Byte}
include hx

theorem cnt_mod : x.cnt.toNat % 64 = R.length := by
  have hcnt := hx.cnt
  have hblocks := hx.blocks
  have hrest := hx.rest_lt
  omega

/-- R501: BUF after one byte more. -/
theorem take_buf_absorbByte : (x.absorbByte b).buf.toList.take (R.length + 1) = R ++ [b] := by
  rw [Context.absorbByte_buf, Context.toList_putByte, hx.cnt_mod]
  exact take_succ_set_of_take_eq hx.buf (by simpa using hx.rest_lt)

variable (hmax : X.length + R.length + 1 < 2 ^ 64)
include hmax

theorem cnt_absorbByte : (x.absorbByte b).cnt.toNat = X.length + (R.length + 1) := by
  rw [Context.absorbByte_cnt, Context.toNat_cnt_succ (by rw [hx.cnt]; exact hmax), hx.cnt, Nat.add_assoc]

/-- R501: a byte that leaves the buffer partly filled. -/
theorem absorbByte_of_part (hpart : R.length + 1 < 64) : (x.absorbByte b).Holds X (R ++ [b]) := by
  have hcnt := hx.cnt_absorbByte (b := b) hmax
  have hblocks := hx.blocks
  refine ⟨hblocks, by simpa using hpart, ?_, by simpa using hcnt, by simpa using hx.take_buf_absorbByte⟩
  rw [Context.absorbByte_h_of_not_full, hx.h]
  rw [← Context.absorbByte_cnt x b, hcnt]
  omega

/-- R501: a byte that fills the buffer, which becomes one block more. -/
theorem absorbByte_of_full (hfull : R.length + 1 = 64) : (x.absorbByte b).Holds (X ++ (R ++ [b])) [] := by
  have hcnt := hx.cnt_absorbByte (b := b) hmax
  have hblocks := hx.blocks
  have hblock : (R ++ [b]).length = 64 := by simpa using hfull
  have hbuf : x.buf.toList.set (x.cnt.toNat % 64) b = R ++ [b] := by
    rw [← hx.take_buf_absorbByte, List.take_of_length_le (by simp [hfull]), Context.absorbByte_buf,
      Context.toList_putByte]
  refine ⟨?_, by decide, ?_, by simpa using hcnt, rfl⟩
  · rw [List.length_append]
    omega
  · rw [Context.absorbByte_h_of_full, hbuf, hx.h, feed_append _ hblocks, feed_one_block _ hblock]
    rw [← Context.absorbByte_cnt x b, hcnt]
    omega

/-- R501: either way, the message held grows by the byte. -/
theorem absorbByte (b : Byte) : ∃ X' R', X' ++ R' = X ++ R ++ [b] ∧ (x.absorbByte b).Holds X' R' := by
  obtain hpart | hfull : R.length + 1 < 64 ∨ R.length + 1 = 64 := by
    have hrest := hx.rest_lt
    omega
  · exact ⟨X, R ++ [b], by simp, hx.absorbByte_of_part hmax hpart⟩
  · exact ⟨X ++ (R ++ [b]), [], by simp, hx.absorbByte_of_full hmax hfull⟩

end Context.Holds

/-- R502: absorbing goes on with the message held. -/
theorem Context.Holds.absorb {x : Context} {X R : Bytes} (hx : x.Holds X R) {m : Bytes}
    (hmax : (X ++ R).length + m.length < 2 ^ 64) :
    ∃ X' R', X' ++ R' = X ++ R ++ m ∧ (x.absorb m).Holds X' R' := by
  induction m generalizing x X R with
  | nil => exact ⟨X, R, by simp, hx⟩
  | cons b m ih =>
    rw [List.length_append, List.length_cons] at hmax
    obtain ⟨X₁, R₁, h₁, hx₁⟩ := hx.absorbByte (by omega) b
    obtain ⟨X', R', h', hx'⟩ := ih hx₁ (by simp [h₁]; omega)
    exact ⟨X', R', by simp [h', h₁], hx'⟩

/-- R503, R508: the final digest of a context is the hash of the message it holds. -/
theorem Context.Holds.finalDigest_eq_hash {x : Context} {X R : Bytes} (hx : x.Holds X R) :
    x.finalDigest = hash (X ++ R) := by
  have htail : x.tail = R ++ pad (X ++ R).length := by
    rw [Context.tail, Context.fill, hx.cnt_mod, hx.buf, hx.cnt, List.length_append]
  rw [Context.finalDigest, hash, htail, hx.h, List.append_assoc, feed_append _ hx.blocks]

/-- Settles O42: the context holds m, and its whole blocks are as long as m's. -/
theorem streamingEqualsOneShot : Obligations.StreamingEqualsOneShot := by
  intro s c m hc hmax
  obtain ⟨t, ht, hctxs⟩ := runAll_ctxInit_ctxAbsorbs (ms := [m]) hc (by simpa using hmax)
  rw [List.flatten_singleton] at hctxs
  have hx : t.ctxs[c.toNat]? = some ((s.ctx c).initialised.absorb m) := by
    rw [hctxs, List.getElem?_set_self hc]
  obtain ⟨X, R, hm, hholds⟩ := (s.ctx c).holds_initialised.absorb (m := m) (by simp; omega)
  obtain rfl : m = X ++ R := by simpa using hm.symm
  have hblocks : 64 * ((X ++ R).length / 64) = X.length := by
    have hX := hholds.blocks
    have hR := hholds.rest_lt
    rw [List.length_append]
    omega
  have hrest : (X ++ R).length % 64 = R.length := by
    rw [← hholds.cnt_mod, hholds.cnt, List.length_append]
  refine ⟨t, _, hash (X ++ R), ht, hx, ?_, ?_, ?_, ?_, exec_hash_of_le hmax s⟩
  · rw [hholds.h, hblocks, List.take_left]
  · rw [hholds.cnt, List.length_append]
  · rw [hrest, hblocks, List.drop_left, hholds.buf]
  · rw [← hholds.finalDigest_eq_hash]
    exact exec_ctxFinal_of_valid hx (by simp)

end Sys2Proof.Machine
end

section
/-! The state codec (46_state_codec.md): the two directions, each undoing the other, and the commands S2D and D2S. -/

namespace Sys2Proof.Machine

@[simp] theorem Cause.word_digestLength : Cause.digestLength.word = 0x00000201 := by decide

/-! ### Digest to State (R541) -/

theorem digestToState_of_length {d : Bytes} (h : d.length = 32) : digestToState d = .ok (chainAt d 0) :=
  if_neg (not_not.2 h)

theorem digestToState_of_length_ne {d : Bytes} (h : d.length ≠ 32) : digestToState d = .error .digestLength :=
  if_pos h

/-- R544: decoding undoes encoding. -/
theorem digestToState_stateToDigest (S : Chain) : digestToState (stateToDigest S) = .ok S := by
  have hread : chainAt (stateToDigest S) 0 = S := by simpa using chainAt_stateToDigest S []
  rw [digestToState_of_length (length_stateToDigest S), hread]

/-- R544: encoding undoes decoding, where decoding succeeds. -/
theorem stateToDigest_of_digestToState_eq_ok {d : Bytes} {S : Chain} (h : digestToState d = .ok S) :
    stateToDigest S = d := by
  by_cases hlen : d.length = 32
  · rw [digestToState_of_length hlen] at h
    obtain rfl := Except.ok.inj h
    exact stateToDigest_chainAt d hlen
  · cases (digestToState_of_length_ne hlen).symm.trans h

/-! ### S2D (R542) -/

theorem cmdWord_s2d (p : Bytes) : (Instr.s2d p).cmdWord = 0x00000030 := by
  change packWord 0 0 0 0x30 = _
  decide

/-- R542: the one test, and the digest of the State that the payload holds. -/
theorem exec_s2d (p : Bytes) (s : State) : exec (.s2d p) s =
    if p.length ≠ 32 then .next (s.refusedWith 0x00000401) else .next (s.answered (stateToDigest (chainAt p 0))) := by
  simp only [exec, execS2d, s2dTests, guarded_decide, guarded_nil, respond_eq_answered, Cause.word_payloadShape]

/-- R544: on the wire S2D returns its payload. -/
theorem exec_s2d_of_length {p : Bytes} (h : p.length = 32) (s : State) :
    exec (.s2d p) s = .next (s.answered p) := by
  rw [exec_s2d, if_neg (not_not.2 h), stateToDigest_chainAt p h]

/-- Settles O43: the payload is the digest of the State it holds. -/
theorem s2dResult : Obligations.S2dResult := by
  refine fun s => ⟨cmdWord_s2d, fun S => ?_, fun p hlen => exec_s2d_of_length hlen s, fun p hlen => ?_⟩
  · exact exec_s2d_of_length (length_stateToDigest S) s
  · rw [exec_s2d, if_pos hlen]

/-! ### D2S (R543) -/

theorem cmdWord_d2s (p : Bytes) : (Instr.d2s p).cmdWord = 0x00000031 := by
  change packWord 0 0 0 0x31 = _
  decide

/-- R543: the one test, and the words of the State that the payload spells. -/
theorem exec_d2s (p : Bytes) (s : State) : exec (.d2s p) s =
    if p.length ≠ 32 then .next (s.refusedWith 0x00000201)
    else .next (s.answered ((chainAt p 0).words.flatMap u32be)) := by
  simp only [exec, execD2s_eq_guarded, guarded_decide, guarded_nil, respond_eq_answered, Cause.word_digestLength]

/-- R543: the words of the State that the payload spells are the payload. -/
theorem flatMap_words_chainAt {p : Bytes} (h : p.length = 32) : (chainAt p 0).words.flatMap u32be = p :=
  stateToDigest_chainAt p h

/-- R544: on the wire D2S returns its payload. -/
theorem exec_d2s_of_length {p : Bytes} (h : p.length = 32) (s : State) :
    exec (.d2s p) s = .next (s.answered p) := by
  rw [exec_d2s, if_neg (not_not.2 h), flatMap_words_chainAt h]

/-- Settles O44: the State is the one that the payload's eight words make. -/
theorem d2sResult : Obligations.D2sResult := by
  refine fun s => ⟨cmdWord_d2s, fun p hlen => ?_, fun p hlen => ?_⟩
  · have hwire := flatMap_words_chainAt hlen
    refine ⟨chainAt p 0, digestToState_of_length hlen, hwire, ?_⟩
    rw [hwire]
    exact exec_d2s_of_length hlen s
  · rw [exec_d2s, if_pos hlen]

/-! ### The round trip (R544) -/

/-- R540: the eight words, in order. -/
theorem stateToDigest_eq_append (S : Chain) : stateToDigest S =
    u32be S.a ++ u32be S.b ++ u32be S.c ++ u32be S.d ++ u32be S.e ++ u32be S.f ++ u32be S.g ++ u32be S.h := by
  simp [stateToDigest, Chain.words]

/-- Settles O45: each direction undoes the other, and both commands return 32 bytes as they are. -/
theorem codecRoundTrip : Obligations.CodecRoundTrip := by
  refine ⟨stateToDigest_eq_append, digestToState_stateToDigest, fun d hlen => digestToState_of_length hlen,
    fun d S => stateToDigest_of_digestToState_eq_ok, fun d => digestToState_of_length_ne, fun s p hlen => ?_⟩
  exact ⟨exec_s2d_of_length hlen s, exec_d2s_of_length hlen s⟩

end Sys2Proof.Machine
end

section
/-! Length extension (47_length_extension.md): the operands and the ordered tests of EXTEND and FORGE, and what the
extension of a digest is. -/

namespace Sys2Proof.Machine

@[simp] theorem Cause.word_forgeLength : Cause.forgeLength.word = 0x00000501 := by decide
@[simp] theorem Cause.word_extendedOver : Cause.extendedOver.word = 0x00000305 := by decide

/-! ### EXTEND (R561, R562) -/

theorem cmdWord_extend (p : Bytes) : (Instr.extend p).cmdWord = 0x00000040 := by
  change packWord 0 0 0 0x40 = _
  decide

theorem exec_extend (p : Bytes) (s : State) : exec (.extend p) s =
    if p.length < 40 then .next (s.refusedWith 0x00000401)
    else if 2 ^ 61 - 1 < p.length then .next (s.refusedWith 0x00000105)
    else if 2 ^ 61 - 1 < extendLen p then .next (s.refusedWith 0x00000105)
    else if 2 ^ 61 - 1 < extendedLength (extendLen p) (p.length - 40) then .next (s.refusedWith 0x00000305)
    else .next (s.answered (extend (slice p 0 32) (extendLen p) (slice p 40 p.length))) := by
  simp only [exec, execExtend, extendTests, guarded_decide, guarded_nil, respond_eq_answered, Cause.word_payloadShape,
    Cause.word_lengthOver, Cause.word_extendedOver]
  rw [maxLen_eq]

/-- R310, R562: the operands read back from a payload that holds a digest, a length and a suffix; its shape is right. -/
theorem exec_extend_operands {G : Bytes} {L : Nat} (hG : G.length = 32) (hL : L < 2 ^ 64) (suffix : Bytes) (s : State) :
    exec (.extend (G ++ u64be L ++ suffix)) s =
      if 2 ^ 61 - 1 < 40 + suffix.length then .next (s.refusedWith 0x00000105)
      else if 2 ^ 61 - 1 < L then .next (s.refusedWith 0x00000105)
      else if 2 ^ 61 - 1 < L + padlen L + suffix.length then .next (s.refusedWith 0x00000305)
      else .next (s.answered (extend G L suffix)) := by
  have hlen : (G ++ u64be L ++ suffix).length = 40 + suffix.length := by
    rw [List.length_append, List.length_append, hG, length_u64be]
  have hdigest : slice (G ++ u64be L ++ suffix) 0 32 = G := by
    simpa using slice_middle [] G (u64be L ++ suffix) 0 32 rfl (by simp [hG])
  have hread : extendLen (G ++ u64be L ++ suffix) = L := be64_middle G suffix L 32 hG.symm hL
  have hsuffix : slice (G ++ u64be L ++ suffix) 40 (40 + suffix.length) = suffix := by
    simpa using slice_middle (G ++ u64be L) suffix [] 40 _ (by simp [hG]) (by simp [hG])
  rw [exec_extend, hlen, if_neg (by omega), hread, Nat.add_sub_cancel_left, extendedLength, hdigest, hsuffix]

/-- R481: a message and its padding fill at least one block. -/
theorem le_add_padlen (n : Nat) : 64 ≤ n + padlen n := by
  have hblocks := add_padlen_mod n
  have hpos := le_padlen n
  omega

/-- R562: EXTEND to a message within MAXLEN. The payload is then within MAXLEN too, its 40 bytes before the suffix
being fewer than the original message and its padding. -/
theorem exec_extend_of_le {G suffix : Bytes} {L : Nat} (hG : G.length = 32)
    (hmax : L + padlen L + suffix.length ≤ 2 ^ 61 - 1) (s : State) :
    exec (.extend (G ++ u64be L ++ suffix)) s = .next (s.answered (extend G L suffix)) := by
  have hblock := le_add_padlen L
  rw [exec_extend_operands hG (by omega), if_neg (by omega), if_neg (by omega), if_neg (Nat.not_lt.2 hmax)]

/-- R541: only 32 bytes spell a State, the one that their words make. -/
theorem length_and_chainAt_of_digestToState_eq_ok {d : Bytes} {S : Chain} (h : digestToState d = .ok S) :
    d.length = 32 ∧ chainAt d 0 = S := by
  by_cases hlen : d.length = 32
  · exact ⟨hlen, Except.ok.inj ((digestToState_of_length hlen).symm.trans h)⟩
  · cases (digestToState_of_length_ne hlen).symm.trans h

/-- R561: the suffix and the padding of the extended length are whole blocks, since the original message and its padding
are. -/
theorem length_extensionTail_mod (L : Nat) (suffix : Bytes) :
    (suffix ++ pad (L + padlen L + suffix.length)).length % 64 = 0 := by
  have horiginal := add_padlen_mod L
  have hextended := add_padlen_mod (L + padlen L + suffix.length)
  rw [List.length_append, length_pad]
  omega

/-- Settles O46: the answer is `extend`, and each refusal is the first failing test. -/
theorem extendResult : Obligations.ExtendResult := by
  intro s G S L suffix hGS hL
  obtain ⟨hG, rfl⟩ := length_and_chainAt_of_digestToState_eq_ok hGS
  refine ⟨cmdWord_extend, fun _ hmax => ⟨length_extensionTail_mod L suffix, exec_extend_of_le hG hmax s⟩,
    fun p hshort => (exec_extend p s).trans (if_pos hshort), fun p hlong => ?_, fun hlong => ?_, fun hfit hp hover => ?_⟩
  · rw [exec_extend, if_neg (by omega), if_pos hlong]
  · rw [exec_extend_operands hG hL, if_pos hlong, ite_self]
  · rw [exec_extend_operands hG hL, if_neg (Nat.not_lt.2 hp), if_neg (Nat.not_lt.2 hfit), if_pos hover]

/-! ### FORGE (R563, R564) -/

theorem cmdWord_forge (p : Bytes) : (Instr.forge p).cmdWord = 0x00000041 := by
  change packWord 0 0 0 0x41 = _
  decide

theorem exec_forge (p : Bytes) (s : State) : exec (.forge p) s =
    if p.length < 8 then .next (s.refusedWith 0x00000401)
    else if p.length - 8 < forgeLen p then .next (s.refusedWith 0x00000501)
    else if 2 ^ 61 - 1 < p.length then .next (s.refusedWith 0x00000105)
    else .next (s.answered (forgedMessage (slice p 8 (8 + forgeLen p)) (slice p (8 + forgeLen p) p.length))) := by
  simp only [exec, execForge, forgeTests, guarded_decide, guarded_nil, respond_eq_answered, Cause.word_payloadShape,
    Cause.word_forgeLength, Cause.word_lengthOver]
  rw [maxLen_eq]

/-- R310, R564: the length read back from a payload that holds a length and further bytes; its shape is right. -/
theorem exec_forge_operands {L : Nat} (hL : L < 2 ^ 64) (q : Bytes) (s : State) : exec (.forge (u64be L ++ q)) s =
    if q.length < L then .next (s.refusedWith 0x00000501)
    else if 2 ^ 61 - 1 < 8 + q.length then .next (s.refusedWith 0x00000105)
    else .next (s.answered (forgedMessage (q.take L) (q.drop L))) := by
  have hlen : (u64be L ++ q).length = 8 + q.length := by simp
  have hread : forgeLen (u64be L ++ q) = L := by simpa [forgeLen] using be64_middle [] q L 0 rfl hL
  have hbytes : (u64be L ++ q).drop 8 = q := List.drop_left' (length_u64be L)
  have horiginal : slice (u64be L ++ q) 8 (8 + L) = q.take L := by
    rw [slice, hbytes, Nat.add_sub_cancel_left]
  have hsuffix : slice (u64be L ++ q) (8 + L) (8 + q.length) = q.drop L := by
    rw [slice, ← List.drop_drop, hbytes]
    exact List.take_of_length_le (by simp; omega)
  rw [exec_forge, hlen, if_neg (by omega), hread, Nat.add_sub_cancel_left, horiginal, hsuffix]

/-- R564: FORGE with a payload within MAXLEN. -/
theorem exec_forge_of_le {original suffix : Bytes} (hmax : 8 + original.length + suffix.length ≤ 2 ^ 61 - 1) (s : State) :
    exec (.forge (u64be original.length ++ original ++ suffix)) s = .next (s.answered (forgedMessage original suffix)) := by
  have hlen := List.length_append (as := original) (bs := suffix)
  rw [List.append_assoc, exec_forge_operands (by omega), if_neg (by omega), if_neg (by omega), List.take_left,
    List.drop_left]

/-- Settles O47: the answer is `forgedMessage`, and each refusal is the first failing test. -/
theorem forgeResult : Obligations.ForgeResult := by
  refine fun s => ⟨cmdWord_forge, fun original suffix hmax => exec_forge_of_le hmax s,
    fun p hshort => (exec_forge p s).trans (if_pos hshort), fun L q hL hover => ?_, fun L q hfit hq hlong => ?_⟩
  · rw [exec_forge_operands hL, if_pos hover]
  · rw [exec_forge_operands (by omega), if_neg (Nat.not_lt.2 hfit), if_pos hlong]

/-! ### Length extension (R565) -/

theorem length_forgedMessage (M X : Bytes) : (forgedMessage M X).length = extendedLength M.length X.length := by
  rw [forgedMessage, extendedLength, List.length_append, List.length_append, length_pad]

/-- R565: the digest of M spells the State that M and its padding, whole blocks, leave; the forged message begins with
them, and goes on with the bytes that the extension feeds to that State. -/
theorem extend_hash (M X : Bytes) : extend (hash M) M.length X = hash (forgedMessage M X) := by
  have hblocks : (M ++ pad M.length).length % 64 = 0 := by
    rw [List.length_append, length_pad, add_padlen_mod]
  have hstate : chainAt (hash M) 0 = feed IV (M ++ pad M.length) := by
    simpa [hash] using chainAt_stateToDigest (feed IV (M ++ pad M.length)) []
  rw [extend, hstate, ← feed_append IV hblocks, hash, length_forgedMessage, forgedMessage]
  simp only [List.append_assoc]

theorem length_hash (m : Bytes) : (hash m).length = 32 := length_stateToDigest _

/-- Settles O48: FORGE and the second HASH accept what EXTEND's bound admits, and the two answers are `extend_hash`'s. -/
theorem lengthExtensionIsCorrect : Obligations.LengthExtensionIsCorrect := by
  intro s M X hmax
  have hpad := le_padlen M.length
  refine ⟨hash M, hash (forgedMessage M X), forgedMessage M X, exec_hash_of_le (by omega) s,
    exec_forge_of_le (by omega) s, exec_hash_of_le ?_ s, ?_⟩
  · rw [length_forgedMessage]
    exact hmax
  · rw [exec_extend_of_le (length_hash M) hmax, extend_hash]

/-! ### A one-block extension (R566) -/

/-- R566: feeding one block is compressing it. -/
theorem extend_of_one_block (G : Bytes) {L : Nat} {suffix : Bytes}
    (h : (suffix ++ pad (extendedLength L suffix.length)).length = 64) : extend G L suffix =
      stateToDigest (compress (chainAt G 0) (suffix ++ pad (extendedLength L suffix.length))) := by
  rw [extend, feed_one_block _ h]

/-- Settles O49: COMPRESS reads from G the State that EXTEND reads from it, and the block is the one that EXTEND feeds. -/
theorem extendThroughCompress : Obligations.ExtendThroughCompress := by
  rintro s G suffix L _ hG - rfl hmax hone
  have hblock : (suffix ++ pad (extendedLength L suffix.length)).length = 64 := by
    rw [List.length_append, length_pad]
    exact hone
  refine ⟨extend G L suffix, exec_extend_of_le hG hmax s, ?_⟩
  have hcompress := exec_compress_operands (chainAt G 0) hblock s
  rw [stateToDigest_chainAt G hG, ← List.append_assoc] at hcompress
  rw [extend_of_one_block G hblock]
  exact hcompress

end Sys2Proof.Machine
end

section
/-! Frames (30_encoding.md R300–R306): the bytes that have arrived are an incomplete frame or a complete one with a
rest, the encoding of a command is its frame, and the word decoder and the encoder undo each other. -/

namespace Sys2Proof

open Machine

/-! ### What has arrived: an incomplete frame, or a complete one and a rest -/

/-- R300: less than 12 + PLEN bytes have arrived. -/
theorem decodeFrame_of_incomplete {bs : Bytes} (h : bs.length < 12 ∨ bs.length < 12 + be64 bs 4) :
    decodeFrame bs = .waiting := by
  have hlt : bs.length < 12 + be64 bs 4 := by omega
  simp only [decodeFrame, if_pos hlt, ite_self]

/-- R300: bytes in which a frame is complete are that frame, its payload of PLEN bytes, and a rest. -/
theorem eq_frameBytes_append_of_complete {bs : Bytes} (h : 12 ≤ bs.length) (hp : 12 + be64 bs 4 ≤ bs.length) :
    ∃ f : Word × Bytes, f.2.length = be64 bs 4 ∧ bs = frameBytes f ++ bs.drop (12 + be64 bs 4) := by
  have hlen : (slice bs 12 (12 + be64 bs 4)).length = be64 bs 4 := by
    rw [length_slice]
    omega
  refine ⟨(be32 bs 0, slice bs 12 (12 + be64 bs 4)), hlen, ?_⟩
  rw [frameBytes, hlen, u32be_be32 bs 0 (by omega), u64be_be64 bs 4 (by omega),
    slice_append_slice bs 0 4 12 (by omega) (by omega), slice_append_slice bs 0 12 _ (by omega) (by omega)]
  exact (List.take_append_drop (12 + be64 bs 4) bs).symm

/-- R300, R306: a complete frame whose command word is illegal is taken whole. -/
theorem decodeFrame_frameBytes_of_error {f : Word × Bytes} {e : Illegal} (hf : f.2.length < 2 ^ 64)
    (h : decodeWord f.1 f.2 = .error e) (rest : Bytes) : decodeFrame (frameBytes f ++ rest) = .illegal e rest :=
  (decodeFrame_frame f.1 f.2 rest hf).trans (by simp only [h])

/-- R300: a complete frame with a command is taken whole. -/
theorem decodeFrame_frameBytes_of_ok {f : Word × Bytes} {i : Instr} (hf : f.2.length < 2 ^ 64)
    (h : decodeWord f.1 f.2 = .ok i) (rest : Bytes) : decodeFrame (frameBytes f ++ rest) = .command i rest :=
  (decodeFrame_frame f.1 f.2 rest hf).trans (by simp only [h])

/-- R300: the engine waits on the bytes that have arrived, or they begin with a complete frame. -/
theorem waiting_or_frame (bs : Bytes) : decodeFrame bs = .waiting ∨
    ∃ (f : Word × Bytes) (rest : Bytes), f.2.length < 2 ^ 64 ∧ bs = frameBytes f ++ rest := by
  by_cases h : bs.length < 12 ∨ bs.length < 12 + be64 bs 4
  · exact .inl (decodeFrame_of_incomplete h)
  · obtain ⟨f, hlen, hbs⟩ := eq_frameBytes_append_of_complete (bs := bs) (by omega) (by omega)
    exact .inr ⟨f, _, hlen ▸ be64_lt bs 4, hbs⟩

/-- R300: on a complete frame, whatever its command word, the engine does not wait. -/
theorem decodeFrame_frameBytes_ne_waiting {f : Word × Bytes} (hf : f.2.length < 2 ^ 64) (rest : Bytes) :
    decodeFrame (frameBytes f ++ rest) ≠ .waiting := by
  cases hd : decodeWord f.1 f.2 with
  | error e => simp [decodeFrame_frameBytes_of_error hf hd]
  | ok i => simp [decodeFrame_frameBytes_of_ok hf hd]

/-! ### The encoder and the decoder -/

theorem encode_eq_frameBytes (i : Instr) : encode i = frameBytes (i.cmdWord, i.payload) := rfl

theorem Instr.wellFormed_iff (i : Instr) : i.wellFormed = true ↔ i.payload.length < 2 ^ 64 := decide_eq_true_iff

/-- R302–R306: the command word of every command decodes, with its payload, to the command. -/
theorem decodeWord_cmdWord (i : Instr) : decodeWord i.cmdWord i.payload = .ok i := by
  cases i with
  | add32 p => exact Laws.CommandWord.add32 p
  | rotr32 p => exact Laws.CommandWord.rotr32 p
  | expand p => exact Laws.CommandWord.expand p
  | step p => exact Laws.CommandWord.step p
  | compress p => exact Laws.CommandWord.compress p
  | pad p => exact Laws.CommandWord.pad p
  | hash p => exact Laws.CommandWord.hash p
  | ctxInit ca p => exact Laws.CommandWord.ctxInit ca p
  | ctxAbsorb ca p => exact Laws.CommandWord.ctxAbsorb ca p
  | ctxFinal ca p => exact Laws.CommandWord.ctxFinal ca p
  | ctxClone ca cb p => exact Laws.CommandWord.ctxClone ca cb p
  | s2d p => exact Laws.CommandWord.s2d p
  | d2s p => exact Laws.CommandWord.d2s p
  | extend p => exact Laws.CommandWord.extend p
  | forge p => exact Laws.CommandWord.forge p

/-- R302–R306, D4: only the command word of a command, with its payload, decodes to it. -/
theorem eq_cmdWord_and_payload_of_decodeWord_eq_ok {cmd : Word} {p : Bytes} {i : Instr} (h : decodeWord cmd p = .ok i) :
    cmd = i.cmdWord ∧ p = i.payload := by
  obtain ⟨-, hrsv, -, -⟩ := decodeWord_ok cmd p i h
  obtain ⟨hopc, hca, hcb, hp⟩ := fields_of_decodeWord_ok h
  refine ⟨?_, hp.symm⟩
  rw [Instr.cmdWord_eq, hopc, hca, hcb, ← hrsv, packWord_fields]

/-- Settles O3: the encoding is a complete frame, and its command word decodes to the command. -/
theorem decodeOfEncode : Obligations.DecodeOfEncode := by
  intro i rest hi
  rw [encode_eq_frameBytes]
  exact decodeFrame_frameBytes_of_ok ((Instr.wellFormed_iff i).1 hi) (decodeWord_cmdWord i) rest

/-- Settles O4: bytes that decode to a command are a frame and the rest, and the frame's command word and payload are
the command's. -/
theorem encodeOfDecode : Obligations.EncodeOfDecode := by
  intro bs i rest h
  obtain hwait | ⟨f, rest', hf, rfl⟩ := waiting_or_frame bs
  · cases hwait.symm.trans h
  · cases hd : decodeWord f.1 f.2 with
    | error e => cases (decodeFrame_frameBytes_of_error hf hd rest').symm.trans h
    | ok j =>
      obtain ⟨rfl, rfl⟩ := Fetched.command.inj ((decodeFrame_frameBytes_of_ok hf hd rest').symm.trans h)
      obtain ⟨hcmd, hp⟩ := eq_cmdWord_and_payload_of_decodeWord_eq_ok hd
      rw [Instr.wellFormed_iff, encode_eq_frameBytes, ← hcmd, ← hp]
      exact ⟨hf, rfl⟩

/-- Settles O1: each frame's fields are computed from its bytes. -/
theorem writtenFramesDecode : Obligations.WrittenFramesDecode := by
  unfold Obligations.WrittenFramesDecode
  decide

end Sys2Proof
end

section
/-! One step of the engine (20_memory.md R210; 30_encoding.md R300): it takes a reset, waits, or runs one frame, legal
or not. -/

namespace Sys2Proof.Machine

theorem step_of_reset {s : State} (hp : s.resetPin = true) : step s = .next (takeReset s) := by
  simp only [step, if_pos hp]

theorem step_of_waiting {s : State} (hp : s.resetPin = false) (h : decodeFrame s.rx = .waiting) : step s = .next s := by
  simp [step, hp, h]

/-- Everything a step can do. -/
theorem step_cases (s : State) : (s.resetPin = true ∧ step s = .next (takeReset s)) ∨
    (s.resetPin = false ∧ decodeFrame s.rx = .waiting ∧ step s = .next s) ∨
    (s.resetPin = false ∧ ∃ (f : Word × Bytes) (rest : Bytes), f.2.length < 2 ^ 64 ∧ s.rx = frameBytes f ++ rest ∧
      step s = execFrame f { s with rx := rest }) := by
  obtain hp | hp := Bool.eq_false_or_eq_true s.resetPin
  · exact .inl ⟨hp, step_of_reset hp⟩
  · obtain hwait | ⟨f, rest, hf, hrx⟩ := waiting_or_frame s.rx
    · exact .inr (.inl ⟨hp, hwait, step_of_waiting hp hwait⟩)
    · exact .inr (.inr ⟨hp, f, rest, hf, hrx, step_frame hp hf hrx⟩)

/-- R603: a frame with an illegal command word is refused with the cause of the decoder's test. -/
theorem execFrame_of_error {f : Word × Bytes} {e : Illegal} (h : decodeWord f.1 f.2 = .error e) (s : State) :
    execFrame f s = .next (s.refusedWith (Cause.ofIllegal e).word) := by
  simp only [execFrame, h]
  rfl

theorem execFrame_of_ok {f : Word × Bytes} {i : Instr} (h : decodeWord f.1 f.2 = .ok i) (s : State) :
    execFrame f s = exec i s := by
  simp only [execFrame, h]

/-- R600, R610: what a command makes of a state: it is refused with one of the causes, writing nothing, or it answers
OK, writing at most the context file. -/
inductive Responded (s : State) : State → Prop where
  | refused (c : Cause) : Responded s (s.refusedWith c.word)
  | answered (cs : List Context) (D : Bytes) : Responded s (State.answered { s with ctxs := cs } D)

theorem responded_of_exec {i : Instr} {s t : State} (h : exec i s = .next t) : Responded s t := by
  rcases exec_cases i s with ⟨c, he⟩ | ⟨D, -, he⟩ | ⟨ca, p, -, -, he⟩ | ⟨ca, p, -, -, he⟩ | ⟨ca, cb, p, -, -, he⟩
  case inl =>
    obtain rfl := (raise_eq_next_iff ..).1 (he.symm.trans h)
    exact .refused c
  all_goals
    obtain rfl := (respond_eq_next_iff ..).1 (he.symm.trans h)
    exact .answered _ _

/-- R600, R603: the same of a complete frame, whose command word may be illegal. -/
theorem responded_of_execFrame {f : Word × Bytes} {s t : State} (h : execFrame f s = .next t) : Responded s t := by
  cases hd : decodeWord f.1 f.2 with
  | error e =>
    obtain rfl := Host.Outcome.next.inj ((execFrame_of_error hd s).symm.trans h)
    exact .refused _
  | ok i => exact responded_of_exec ((execFrame_of_ok hd s).symm.trans h)

/-- R600, R610: the one response that a command has returned: a refusal has no data and nothing else is written;
otherwise the status is OK. -/
theorem Responded.response {s t : State} {r : Response} (h : Responded s t) (htx : t.tx = s.tx ++ [r]) :
    (r.data = [] ∧ t = { s with tx := s.tx ++ [r] }) ∨ r.status = 0 := by
  cases h with
  | refused c =>
    obtain rfl : ⟨c.word, []⟩ = r := List.singleton_inj.1 (List.append_cancel_left htx)
    exact .inl ⟨rfl, rfl⟩
  | answered cs D =>
    obtain rfl : ⟨0, D⟩ = r := List.singleton_inj.1 (List.append_cancel_left htx)
    exact .inr rfl

/-- Settles O5. -/
theorem stepRunsDecodedCommand : Obligations.StepRunsDecodedCommand := by
  intro s i rest hp hd
  simp [step, hp, hd]

/-- R300: PLEN is bytes 4..11 of the frame. -/
theorem beNat_take_drop_eq_be64 (bs : Bytes) : beNat ((bs.drop 4).take 8) = be64 bs 4 := rfl

/-- Settles O6. -/
theorem incompleteFrameWaits : Obligations.IncompleteFrameWaits :=
  fun _ hp hshort => step_of_waiting hp (decodeFrame_of_incomplete hshort)

/-- Settles O8: a step runs the frame, and the decoder's test gives the status word. -/
theorem illegalCommandRefused : Obligations.IllegalCommandRefused := by
  intro s cmd p rest hp hlen hrx
  have hstep : step s = execFrame (cmd, p) { s with rx := rest } := step_frame hp hlen hrx
  refine ⟨fun h => ?_, fun h => ?_, fun h => ?_⟩
  all_goals
    rw [hstep, execFrame_of_error h]
    rfl

/-- Settles O7: the frame's rule gives one response and does not touch the bytes behind the frame. -/
theorem oneResponsePerFrame : Obligations.OneResponsePerFrame := by
  intro s hp h12 hcomplete
  rw [beNat_take_drop_eq_be64] at hcomplete ⊢
  obtain ⟨f, hlen, hrx⟩ := eq_frameBytes_append_of_complete h12 hcomplete
  obtain ⟨cs, r, hexec⟩ := execFrame_reads_only_ctxs f s
  have hrun := hexec { s with rx := s.rx.drop (12 + be64 s.rx 4) }
  refine ⟨_, r, (step_frame hp (hlen ▸ be64_lt s.rx 4) hrx).trans hrun, rfl, rfl, fun hne => ?_⟩
  obtain ⟨hdata, -⟩ := (responded_of_execFrame hrun).response rfl |>.resolve_right hne
  exact hdata

/-- Settles O10: the frame's rule does not read the bytes behind the frame, to which the later ones are appended. -/
theorem laterBytesDoNotMatter : Obligations.LaterBytesDoNotMatter := by
  intro s t bs hp hne hstep
  obtain hwait | ⟨f, rest, hf, hrx⟩ := waiting_or_frame s.rx
  · exact absurd hwait hne
  · obtain ⟨cs, r, hexec⟩ := execFrame_reads_only_ctxs f s
    have hrun := (step_frame hp hf hrx).trans (hexec { s with rx := rest })
    obtain rfl := Host.Outcome.next.inj (hrun.symm.trans hstep)
    have hrx' : (s.hostSend bs).rx = frameBytes f ++ (rest ++ bs) := by simp [hrx]
    exact (step_frame (s := s.hostSend bs) hp hf hrx').trans (hexec { s with rx := rest ++ bs })

end Sys2Proof.Machine
end

section
/-! Responses and refusals (30_encoding.md R301; 60_exceptions.md R600–R610): the frame of a response, one response for
each command, and what a refused command and a pure one leave unchanged. -/

namespace Sys2Proof.Machine

/-- Settles O11. -/
theorem statusWordsOfCauses : Obligations.StatusWordsOfCauses := by
  unfold Obligations.StatusWordsOfCauses
  decide

/-- Settles O12: the fields have 4 and 8 bytes, and each reads back. -/
theorem responseFrameLayout : Obligations.ResponseFrameLayout := by
  intro r hr
  have hdata : r.frame = (u32be r.status ++ u64be r.data.length) ++ r.data := rfl
  have hfields : r.frame = u32be r.status ++ (u64be r.data.length ++ r.data) := by simp [hdata]
  refine ⟨by rw [hdata, List.length_append, List.length_append, length_u32be, length_u64be], ?_, ?_, ?_⟩
  · rw [hfields, List.take_left' (length_u32be _), beNat_u32be]
  · rw [hfields, List.drop_left' (length_u32be _), List.take_left' (length_u64be _), beNat_u64be _ hr]
  · rw [hdata, List.drop_left' (by simp)]

/-- R7, R106: no command changes the number of contexts. -/
theorem exec_length_ctxs {i : Instr} {s t : State} (h : exec i s = .next t) : t.ctxs.length = s.ctxs.length := by
  obtain ht | ⟨x, ht⟩ := exec_ctxs_eq_or_set h
  · rw [ht]
  · rw [ht, List.length_set]

/-- Settles O13. -/
theorem everyCommandAnswersOnce : Obligations.EveryCommandAnswersOnce := by
  intro i s
  obtain ⟨cs, r, hexec⟩ := exec_reads_only_ctxs i s
  exact ⟨_, r, hexec s, rfl, rfl, rfl, rfl, exec_length_ctxs (hexec s)⟩

/-- Settles O18: a command reads the contexts alone. -/
theorem responsesAreNotRead : Obligations.ResponsesAreNotRead := by
  intro i s T
  obtain ⟨cs, r, hexec⟩ := exec_reads_only_ctxs i s
  exact ⟨_, r, hexec s, rfl, hexec { s with tx := T }⟩

/-- R610: a response with a STATUS other than OK is a refusal's. -/
theorem Responded.of_status_ne_ok {s t : State} {r : Response} (h : Responded s t) (htx : t.tx = s.tx ++ [r])
    (hr : r.status.toNat % 256 ≠ 0) : r.data = [] ∧ t = { s with tx := s.tx ++ [r] } :=
  (h.response htx).resolve_right fun hok => hr (by simp [hok])

/-- Settles O14: a step that returns a response has run a frame, and only a refusal has a STATUS other than OK. -/
theorem refusedCommandWritesNothing : Obligations.RefusedCommandWritesNothing := by
  refine ⟨fun i s t r h htx hr => (responded_of_exec h).of_status_ne_ok htx hr, fun s t r h htx hr => ?_⟩
  rcases step_cases s with ⟨-, hs⟩ | ⟨-, -, hs⟩ | ⟨-, f, rest, -, -, hs⟩
  · obtain rfl := Host.Outcome.next.inj (hs.symm.trans h)
    simp at htx
  · obtain rfl := Host.Outcome.next.inj (hs.symm.trans h)
    simp at htx
  · obtain ⟨hdata, ht⟩ := (responded_of_execFrame (hs.symm.trans h)).of_status_ne_ok htx hr
    exact ⟨hdata, by rw [ht]⟩

/-- R107, R207: every command but the three is pure. -/
theorem isPure_of_ne {i : Instr} (hinit : ∀ ca p, i ≠ .ctxInit ca p) (habsorb : ∀ ca p, i ≠ .ctxAbsorb ca p)
    (hclone : ∀ ca cb p, i ≠ .ctxClone ca cb p) : i.isPure = true := by
  cases i with
  | ctxInit ca p => exact absurd rfl (hinit ca p)
  | ctxAbsorb ca p => exact absurd rfl (habsorb ca p)
  | ctxClone ca cb p => exact absurd rfl (hclone ca cb p)
  | _ => rfl

/-- Settles O15: a pure command adds its response. -/
theorem otherCommandsChangeNoState : Obligations.OtherCommandsChangeNoState := by
  intro i s t hinit habsorb hclone h
  obtain ⟨r, hexec⟩ := exec_eq_emit_of_isPure (isPure_of_ne hinit habsorb hclone) s
  exact ⟨r, (Host.Outcome.next.inj ((hexec s).symm.trans h)).symm⟩

end Sys2Proof.Machine
end

section
/-! The answers (30_encoding.md R311): which data a command answers with, and how long it is. -/

namespace Sys2Proof.Machine

/-- R311: RLEN of a command that answers OK. -/
def answerLength : Instr → Nat
  | .add32 _ => 4
  | .rotr32 _ => 4
  | .expand _ => 256
  | .step _ => 32
  | .compress _ => 32
  | .pad p => padlen (be64 p 0)
  | .hash _ => 32
  | .ctxInit _ _ => 0
  | .ctxAbsorb _ _ => 0
  | .ctxFinal _ _ => 32
  | .ctxClone _ _ _ => 0
  | .s2d _ => 32
  | .d2s _ => 32
  | .extend _ => 32
  | .forge p => p.length - 8 + padlen (be64 p 0)

@[simp] theorem length_finalDigest (x : Context) : x.finalDigest.length = 32 := length_stateToDigest _

@[simp] theorem length_extend (G : Bytes) (L : Nat) (suffix : Bytes) : (extend G L suffix).length = 32 :=
  length_stateToDigest _

/-- R563: the two slices of a FORGE payload are the bytes after its length, so the message is their number and the
padding long. -/
theorem length_forgedMessage_slices {p : Bytes} {L : Nat} (h8 : 8 ≤ p.length) (hL : L ≤ p.length - 8) :
    (forgedMessage (slice p 8 (8 + L)) (slice p (8 + L) p.length)).length = p.length - 8 + padlen L := by
  have horiginal : (slice p 8 (8 + L)).length = L := by
    rw [length_slice]
    omega
  rw [length_forgedMessage, extendedLength, horiginal, length_slice]
  omega

/-- R564: the tests of a FORGE that answers. -/
theorem forge_bounds_of_passes {p : Bytes} (h : firstFailing (forgeTests p) = none) :
    8 ≤ p.length ∧ forgeLen p ≤ p.length - 8 ∧ p.length ≤ Config.maxLen := by
  simpa [forgeTests] using (firstFailing_eq_none _).1 h

/-- R311, R608: every command is guarded by its tests, and answers, when they pass, with data of its own length. -/
theorem exec_eq_guarded (i : Instr) (s : State) : ∃ ts D u, exec i s = guarded ts s (respond D u) ∧ u.tx = s.tx ∧
    (firstFailing ts = none → D.length = answerLength i ∧ answerLength i < 2 ^ 64) := by
  cases i with
  | add32 p | rotr32 p => exact ⟨_, _, s, rfl, rfl, fun _ => ⟨length_u32be _, by simp [answerLength]⟩⟩
  | expand p | step p | compress p =>
    exact ⟨_, _, s, rfl, rfl, fun _ => ⟨by simp [answerLength], by simp [answerLength]⟩⟩
  | d2s p => exact ⟨_, _, s, execD2s_eq_guarded p s, rfl, fun _ => ⟨by simp [answerLength], by simp [answerLength]⟩⟩
  | hash p | s2d p | extend p | ctxFinal ca p =>
    exact ⟨_, _, s, rfl, rfl, fun _ => ⟨length_stateToDigest _, by simp [answerLength]⟩⟩
  | ctxInit ca p | ctxAbsorb ca p | ctxClone ca cb p =>
    exact ⟨_, [], _, rfl, rfl, fun _ => ⟨rfl, by simp [answerLength]⟩⟩
  | pad p => exact ⟨_, _, s, rfl, rfl, fun _ => ⟨length_pad _, (padlen_le _).trans_lt (by decide)⟩⟩
  | forge p =>
    refine ⟨_, _, s, rfl, rfl, fun hpass => ?_⟩
    obtain ⟨h8, hL, hmax⟩ := forge_bounds_of_passes hpass
    have hpad := padlen_le (be64 p 0)
    rw [maxLen_eq] at hmax
    exact ⟨length_forgedMessage_slices h8 hL, by simp only [answerLength]; omega⟩

/-- R311: the data of a response with status OK is as long as its command's row says, and that fits RLEN. -/
theorem length_data_of_ok {i : Instr} {s t : State} {r : Response} (h : exec i s = .next t) (htx : t.tx = s.tx ++ [r])
    (hr : r.status = 0) : r.data.length = answerLength i ∧ answerLength i < 2 ^ 64 := by
  obtain ⟨ts, D, u, he, hu, hlen⟩ := exec_eq_guarded i s
  obtain ⟨hpass, hg⟩ | ⟨c, -, hg⟩ := guarded_cases ts s (respond D u)
  · obtain rfl := (respond_eq_next_iff ..).1 (hg.symm.trans (he.symm.trans h))
    obtain rfl : r = ⟨okWord, D⟩ := by simpa [hu] using htx.symm
    exact hlen hpass
  · obtain rfl := (raise_eq_next_iff ..).1 (hg.symm.trans (he.symm.trans h))
    obtain rfl : r = ⟨c.word, []⟩ := by simpa using htx.symm
    exact absurd hr c.word_ne_zero

/-- Settles O19: the length of each row; PAD's is within the padding law. -/
theorem responseLengths : Obligations.ResponseLengths := by
  intro i s t r h htx hr
  obtain ⟨hlen, -⟩ := length_data_of_ok h htx hr
  cases i with
  | pad p =>
    simp only [hlen, answerLength]
    exact ⟨le_padlen _, padlen_le _⟩
  | _ => exact hlen

end Sys2Proof.Machine
end

section
/-! Reset and the invariant of the engine (10_state.md R102, R105, R114; 70_reset_and_hazards.md R700–R702). -/

namespace Sys2Proof.Machine

/-! ### Reset -/

theorem decodeFrame_nil : decodeFrame [] = .waiting := decodeFrame_of_incomplete (.inl (by decide))

theorem resetOf_invalid {n : Nat} {x : Context} (hx : x ∈ (State.resetOf n).ctxs) : x.valid = false := by
  rw [List.eq_of_mem_replicate hx]
  rfl

theorem resetOf_nctx (n : Nat) : (State.resetOf n).nctx = n := List.length_replicate

/-- Settles O50. -/
theorem resetLeavesAllInvalid : Obligations.ResetLeavesAllInvalid :=
  fun n => ⟨resetOf_nctx n, fun _ => resetOf_invalid, step_of_waiting rfl decodeFrame_nil⟩

/-- Settles O51: the bytes are discarded, so that with reset released the engine waits. -/
theorem resetDiscardsEverything : Obligations.ResetDiscardsEverything :=
  fun s hp => ⟨takeReset s, step_of_reset hp, takeReset_nctx s, takeReset_invalid s, rfl, fun _ hr => hr,
    step_of_waiting rfl decodeFrame_nil⟩

/-- Settles O52: in each command the test for a valid context comes right after those for the context indices. -/
theorem invalidContextsAreRefused : Obligations.InvalidContextsAreRefused := by
  intro s ca cb p hinvalid (hca : ca.toNat < s.nctx) (hcb : cb.toNat < s.nctx)
  have htarget := hinvalid _ (s.ctx_mem ca hca)
  have hsource := hinvalid _ (s.ctx_mem cb hcb)
  refine ⟨?_, ?_, ?_⟩
  · rw [exec_ctxAbsorb, if_neg (Nat.not_le.2 hca), if_pos htarget]
  · rw [exec_ctxFinal, if_neg (Nat.not_le.2 hca), if_pos htarget]
  · rw [exec_ctxClone, if_neg (Nat.not_le.2 hca), if_neg (Nat.not_le.2 hcb), if_pos hsource]

/-! ### Legal responses (R301, R601, R602) -/

theorem Response.legal_of_refusal (c : Cause) : Response.Legal ⟨c.word, []⟩ := by
  unfold Response.Legal
  cases c <;> decide

theorem Response.legal_of_ok {D : Bytes} (hD : D.length < 2 ^ 64) : Response.Legal ⟨0, D⟩ := by
  simpa [Response.Legal, Response.statusField, Response.detailField] using hD

/-- R311: the response of every command is legal, the data fitting RLEN. -/
theorem legal_of_exec {i : Instr} {s t : State} {r : Response} (h : exec i s = .next t) (htx : t.tx = s.tx ++ [r]) :
    r.Legal := by
  cases responded_of_exec h with
  | refused c =>
    obtain rfl : ⟨c.word, []⟩ = r := List.singleton_inj.1 (List.append_cancel_left htx)
    exact Response.legal_of_refusal c
  | answered cs D =>
    obtain rfl : ⟨0, D⟩ = r := List.singleton_inj.1 (List.append_cancel_left htx)
    obtain ⟨hlen, hlt⟩ := length_data_of_ok h rfl rfl
    exact Response.legal_of_ok (hlen ▸ hlt)

/-! ### Counts (R105) -/

theorem Context.countInRange_of_invalid {x : Context} (h : x.valid = false) : x.CountInRange :=
  fun hv => absurd (h.symm.trans hv) (by decide)

theorem Context.countInRange_initialised (x : Context) : x.initialised.CountInRange := fun _ => Nat.zero_le _

/-- R502, R607: an absorb is accepted within MAXLEN only. -/
theorem cnt_add_le_of_ctxAbsorbTests {ca : CtxIdx} {p : Bytes} {s : State}
    (h : firstFailing (ctxAbsorbTests ca p s) = none) : (s.ctx ca).cnt.toNat + p.length ≤ Config.maxLen := by
  have htests := (firstFailing_eq_none _).1 h
  simp only [ctxAbsorbTests, List.forall_mem_cons, decide_eq_false_iff_not] at htests
  obtain ⟨-, -, -, hcount, -⟩ := htests
  exact Nat.le_of_not_lt hcount

/-- R105: CNT counts the bytes of an absorb within MAXLEN, and does not wrap. -/
theorem Context.countInRange_absorb {x : Context} {p : Bytes} (h : x.cnt.toNat + p.length ≤ Config.maxLen) :
    (x.absorb p).CountInRange := by
  intro _
  rw [Context.toNat_cnt_absorb]
  · exact h
  · rw [maxLen_eq] at h
    omega

theorem source_lt_nctx_of_ctxCloneTests {ca cb : CtxIdx} {p : Bytes} {s : State}
    (h : firstFailing (ctxCloneTests ca cb p s) = none) : cb.toNat < s.nctx := by
  simpa using (firstFailing_eq_none _).1 h _ (.tail _ (.head _))

theorem countInRange_of_mem_set {cs : List Context} {n : Nat} {y : Context} (h : ∀ x ∈ cs, x.CountInRange)
    (hy : y.CountInRange) : ∀ x ∈ cs.set n y, x.CountInRange := by
  intro x hx
  obtain hx | rfl := List.mem_or_eq_of_mem_set hx
  · exact h x hx
  · exact hy

/-- R105: every command keeps the counts in range. -/
theorem countInRange_of_exec {i : Instr} {s t : State} (h : exec i s = .next t) (hs : ∀ x ∈ s.ctxs, x.CountInRange) :
    ∀ x ∈ t.ctxs, x.CountInRange := by
  rcases exec_cases i s with
    ⟨c, he⟩ | ⟨D, -, he⟩ | ⟨ca, p, -, -, he⟩ | ⟨ca, p, -, hpass, he⟩ | ⟨ca, cb, p, -, hpass, he⟩
  case inl =>
    obtain rfl := (raise_eq_next_iff ..).1 (he.symm.trans h)
    exact hs
  all_goals obtain rfl := (respond_eq_next_iff ..).1 (he.symm.trans h)
  · exact hs
  · exact countInRange_of_mem_set hs (Context.countInRange_initialised _)
  · exact countInRange_of_mem_set hs (Context.countInRange_absorb (cnt_add_le_of_ctxAbsorbTests hpass))
  · exact countInRange_of_mem_set hs (hs _ (s.ctx_mem cb (source_lt_nctx_of_ctxCloneTests hpass)))

/-! ### The invariant -/

/-- The invariant over one response more and a context file of the same length. -/
theorem State.Inv.respond {s : State} (h : s.Inv) {cs : List Context} {r : Response} (hlen : cs.length = s.nctx)
    (hcs : ∀ x ∈ cs, x.CountInRange) (hr : r.Legal) : State.Inv { s with ctxs := cs, tx := s.tx ++ [r] } where
  nctx_ge := h.nctx_ge.trans_eq hlen.symm
  nctx_le := hlen.trans_le h.nctx_le
  counts := hcs
  responses := by simpa [or_imp, forall_and] using ⟨h.responses, hr⟩

theorem State.Inv.exec {s t : State} {i : Instr} (h : s.Inv) (he : exec i s = .next t) : t.Inv := by
  obtain ⟨cs, r, hexec⟩ := exec_reads_only_ctxs i s
  obtain rfl := Host.Outcome.next.inj ((hexec s).symm.trans he)
  exact h.respond (exec_length_ctxs he) (countInRange_of_exec he h.counts) (legal_of_exec he rfl)

theorem State.Inv.execFrame {s t : State} {f : Word × Bytes} (h : s.Inv) (he : execFrame f s = .next t) : t.Inv := by
  cases hd : decodeWord f.1 f.2 with
  | error e =>
    obtain rfl := Host.Outcome.next.inj ((execFrame_of_error hd s).symm.trans he)
    exact h.respond rfl h.counts (Response.legal_of_refusal _)
  | ok i => exact h.exec ((execFrame_of_ok hd s).symm.trans he)

/-- The invariant does not speak of the bytes that have arrived. -/
theorem State.Inv.setRx {s : State} (h : s.Inv) (bs : Bytes) : State.Inv { s with rx := bs } :=
  ⟨h.nctx_ge, h.nctx_le, h.counts, h.responses⟩

theorem State.Inv.takeReset {s : State} (h : s.Inv) : (takeReset s).Inv where
  nctx_ge := h.nctx_ge.trans_eq (takeReset_nctx s).symm
  nctx_le := (takeReset_nctx s).trans_le h.nctx_le
  counts x hx := Context.countInRange_of_invalid (takeReset_invalid s x hx)
  responses := h.responses

/-- Settles O54: a reset leaves no context valid, waiting changes nothing, and a frame's command answers with a legal
response and keeps the counts in range. -/
theorem everyStepKeepsInvariant : Obligations.EveryStepKeepsInvariant := by
  intro s t h hstep
  rcases step_cases s with ⟨-, hs⟩ | ⟨-, -, hs⟩ | ⟨-, f, rest, -, -, hs⟩
  · obtain rfl := Host.Outcome.next.inj (hs.symm.trans hstep)
    exact h.takeReset
  · obtain rfl := Host.Outcome.next.inj (hs.symm.trans hstep)
    exact h
  · exact (h.setRx rest).execFrame (hs.symm.trans hstep)

theorem inv_resetOf {n : Nat} (h2 : 2 ≤ n) (h16 : n ≤ 16) : (State.resetOf n).Inv where
  nctx_ge := h2.trans_eq (resetOf_nctx n).symm
  nctx_le := (resetOf_nctx n).trans_le h16
  counts _ hx := Context.countInRange_of_invalid (resetOf_invalid hx)
  responses _ hr := absurd hr List.not_mem_nil

/-- Settles O53: the machine of the host has four contexts. -/
theorem invariantAtReset : Obligations.InvariantAtReset :=
  ⟨fun _ => inv_resetOf, inv_resetOf (n := Config.nctx) (by decide) (by decide)⟩

end Sys2Proof.Machine
end

section
/-! Counting and feeding the bytes of a message (10_state.md R105; 43_compression.md R465). -/

namespace Sys2Proof.Machine

/-- Settles O36: within MAXLEN the count fits its 64 bits. -/
theorem absorbCountsBytes : Obligations.AbsorbCountsBytes :=
  fun _ _ h => Context.toNat_cnt_absorb (by omega)

/-- Settles O30. -/
theorem feedChains : Obligations.FeedChains := fun S _ Y hX _ => feed_append S hX Y

end Sys2Proof.Machine
end

section
/-! What no command reads (10_state.md R102, R104): stale bytes of BUF, and the contents of invalid contexts. -/

namespace Sys2Proof.Machine

/-! ### Contexts -/

theorem Context.same_of_invalid {x y : Context} (hx : x.valid = false) (hy : y.valid = false) : x.Same y :=
  ⟨hx.trans hy.symm, fun hv => absurd (hx.symm.trans hv) (by decide)⟩

theorem Context.Same.refl (x : Context) : x.Same x := ⟨rfl, fun _ => ⟨rfl, rfl, rfl⟩⟩

/-- R500: CTX_INIT leaves no readable byte of BUF. -/
theorem Context.same_initialised (x y : Context) : x.initialised.Same y.initialised :=
  ⟨rfl, fun _ => ⟨rfl, rfl, rfl⟩⟩

/-- R104, R501: 2^64 is a multiple of 64, so the place in the buffer goes on also where CNT wraps. -/
theorem Context.fill_absorbByte (x : Context) (b : Byte) : (x.absorbByte b).fill = (x.fill + 1) % 64 := by
  simp only [Context.fill, Context.absorbByte_cnt, BitVec.toNat_add]
  simp

theorem Context.fill_lt (x : Context) : x.fill < 64 := Nat.mod_lt _ (by decide)

theorem Context.fill_succ_of_full {x : Context} (h : (x.cnt + 1).toNat % 64 = 0) : x.fill + 1 = 64 := by
  have hmod := (x.fill_absorbByte 0).symm.trans h
  have hlt := x.fill_lt
  omega

/-- R501: the byte written stands behind the readable ones. -/
theorem Context.take_putByte (x : Context) (b : Byte) :
    (x.putByte b).toList.take (x.fill + 1) = x.buf.toList.take x.fill ++ [b] := by
  have hlt := x.fill_lt
  have hlen : (x.buf.toList.take x.fill).length = x.fill := List.length_take_of_le (by simpa using hlt.le)
  have h := take_succ_set_of_take_eq (l := x.buf.toList) (R := x.buf.toList.take x.fill) (b := b) (by rw [hlen])
    (by simpa [hlen] using hlt)
  rw [hlen] at h
  rw [Context.toList_putByte]
  exact h

/-- R501: absorbing a byte reads no stale byte: a full buffer, which is compressed, has none. -/
theorem Context.Same.absorbByte {x y : Context} (h : x.Same y) (b : Byte) : (x.absorbByte b).Same (y.absorbByte b) := by
  obtain ⟨hvalid, hread⟩ := h
  refine ⟨hvalid, fun hv => ?_⟩
  obtain ⟨hh, hcnt, hbuf⟩ := hread hv
  have hfill : y.fill = x.fill := by rw [Context.fill, Context.fill, hcnt]
  have htake : (x.putByte b).toList.take (x.fill + 1) = (y.putByte b).toList.take (x.fill + 1) := by
    rw [x.take_putByte, ← hfill, y.take_putByte, hfill, hbuf, hfill]
  refine ⟨?_, congrArg (· + 1) hcnt, ?_⟩
  · by_cases hfull : (x.cnt + 1).toNat % 64 = 0
    · have hlist : (x.putByte b).toList = (y.putByte b).toList := by
        rwa [Context.fill_succ_of_full hfull, List.take_of_length_le (by simp), List.take_of_length_le (by simp)]
          at htake
      rw [Context.absorbByte_h_of_full hfull, Context.absorbByte_h_of_full (hcnt ▸ hfull), hh,
        ← Context.toList_putByte, hlist, Context.toList_putByte]
    · rw [Context.absorbByte_h_of_not_full hfull, Context.absorbByte_h_of_not_full (hcnt ▸ hfull), hh]
  · have hless := congrArg (List.take ((x.fill + 1) % 64)) htake
    rw [List.take_take, List.take_take, min_eq_left (Nat.mod_le _ _)] at hless
    rw [Context.fill_absorbByte, Context.fill_absorbByte, hfill]
    exact hless

theorem Context.Same.absorb {x y : Context} (h : x.Same y) (m : Bytes) : (x.absorb m).Same (y.absorb m) := by
  induction m generalizing x y with
  | nil => exact h
  | cons b m ih => exact ih (h.absorbByte b)

/-- R503: the digest of a valid context reads no stale byte. -/
theorem Context.Same.finalDigest_eq {x y : Context} (h : x.Same y) (hv : x.valid = true) :
    x.finalDigest = y.finalDigest := by
  obtain ⟨-, hread⟩ := h
  obtain ⟨hh, hcnt, hbuf⟩ := hread hv
  rw [Context.finalDigest, Context.finalDigest, Context.tail, Context.tail, hh, hcnt, hbuf]

/-! ### States -/

theorem forall₂_set {α β : Type} {R : α → β → Prop} {l : List α} {m : List β} {a : α} {b : β}
    (h : List.Forall₂ R l m) (hab : R a b) (n : Nat) : List.Forall₂ R (l.set n a) (m.set n b) := by
  induction h generalizing n with
  | nil => exact .nil
  | cons hhead htail ih =>
    cases n with
    | zero => exact .cons hab htail
    | succ n => exact .cons hhead (ih n)

section
variable {s t : State} (h : s.Same t)
include h

theorem State.Same.nctx_eq : s.nctx = t.nctx := h.ctxs.length_eq

theorem State.Same.ctx (c : CtxIdx) : (s.ctx c).Same (t.ctx c) := by
  by_cases hc : c.toNat < s.nctx
  · have hc' : c.toNat < t.nctx := h.nctx_eq ▸ hc
    simp only [State.nctx] at hc hc'
    simpa [State.ctx, hc, hc'] using h.ctxs.get hc hc'
  · have hc' : ¬ c.toNat < t.nctx := h.nctx_eq ▸ hc
    simp only [State.nctx] at hc hc'
    simpa [State.ctx, hc, hc'] using Context.Same.refl _

theorem State.Same.setCtx (c : CtxIdx) {x y : Context} (hxy : x.Same y) : (s.setCtx c x).Same (t.setCtx c y) :=
  ⟨forall₂_set h.ctxs hxy _, h.rx, h.tx, h.resetPin⟩

theorem State.Same.emit (r : Response) : (s.emit r).Same (t.emit r) :=
  ⟨h.ctxs, h.rx, congrArg (· ++ [r]) h.tx, h.resetPin⟩

theorem State.Same.setRx (bs : Bytes) : State.Same { s with rx := bs } { t with rx := bs } :=
  ⟨h.ctxs, rfl, h.tx, h.resetPin⟩

/-- R114, R700: a reset leaves other unspecified contents, but no valid context. -/
theorem State.Same.takeReset : (takeReset s).Same (takeReset t) where
  ctxs := by
    have hlen : s.ctxs.length = t.ctxs.length := h.nctx_eq
    simp only [Machine.takeReset, List.forall₂_map_left_iff, List.forall₂_map_right_iff, hlen, List.forall₂_same]
    exact fun c _ => Context.same_of_invalid rfl rfl
  rx := rfl
  tx := h.tx
  resetPin := rfl

theorem State.Same.observed_eq : t.observed = s.observed := congrArg (List.map Response.frame) h.tx.symm

end

/-! ### Commands, frames and steps -/

/-- Both outcomes are next states, which the host cannot tell apart. -/
def NextSame (o o' : Outcome) : Prop := ∃ s t : State, o = .next s ∧ o' = .next t ∧ s.Same t

/-- R608: guarded commands with the same first failing test, or the same answer, keep two states alike. -/
theorem State.Same.guarded {s t u v : State} {ts ts' : Tests} {D E : Bytes} (h : s.Same t)
    (htests : firstFailing ts = firstFailing ts') (hpass : firstFailing ts = none → D = E ∧ u.Same v) :
    NextSame (guarded ts s (respond D u)) (guarded ts' t (respond E v)) := by
  obtain ⟨hn, hg⟩ | ⟨c, hc, hg⟩ := guarded_cases ts s (respond D u)
  · obtain ⟨rfl, huv⟩ := hpass hn
    exact ⟨_, _, hg, guarded_none _ _ _ (htests ▸ hn), huv.emit _⟩
  · exact ⟨_, _, hg, guarded_some _ _ _ c (htests ▸ hc), h.emit _⟩

theorem valid_of_ctxFinalTests {ca : CtxIdx} {p : Bytes} {s : State}
    (h : firstFailing (ctxFinalTests ca p s) = none) : (s.ctx ca).valid = true := by
  simpa using (firstFailing_eq_none _).1 h _ (.tail _ (.head _))

section
variable {s t : State} (h : s.Same t) (ca cb : CtxIdx) (p : Bytes)
include h

theorem State.Same.ctxInitTests_eq : ctxInitTests ca p s = ctxInitTests ca p t := by
  rw [ctxInitTests, ctxInitTests, h.nctx_eq]

theorem State.Same.ctxFinalTests_eq : ctxFinalTests ca p s = ctxFinalTests ca p t := by
  obtain ⟨hvalid, -⟩ := h.ctx ca
  rw [ctxFinalTests, ctxFinalTests, h.nctx_eq, hvalid]

theorem State.Same.ctxCloneTests_eq : ctxCloneTests ca cb p s = ctxCloneTests ca cb p t := by
  obtain ⟨hvalid, -⟩ := h.ctx cb
  rw [ctxCloneTests, ctxCloneTests, h.nctx_eq, hvalid]

/-- R605, R607: the count is tested in a valid context only. -/
theorem State.Same.firstFailing_ctxAbsorbTests :
    firstFailing (ctxAbsorbTests ca p s) = firstFailing (ctxAbsorbTests ca p t) := by
  obtain ⟨hvalid, hread⟩ := h.ctx ca
  simp only [ctxAbsorbTests, firstFailing_decide, firstFailing_not, h.nctx_eq, ← hvalid]
  cases hv : (s.ctx ca).valid with
  | false => rfl
  | true =>
    obtain ⟨-, hcnt, -⟩ := hread hv
    rw [hcnt]

end

/-- R102, R104: no command tells two such states apart. -/
theorem State.Same.exec {s t : State} (h : s.Same t) (i : Instr) : NextSame (exec i s) (exec i t) := by
  cases i with
  | add32 p | rotr32 p | expand p | step p | compress p | pad p | hash p | s2d p | extend p | forge p =>
    exact h.guarded rfl fun _ => ⟨rfl, h⟩
  | d2s p =>
    simp only [Machine.exec, execD2s_eq_guarded]
    exact h.guarded rfl fun _ => ⟨rfl, h⟩
  | ctxInit ca p =>
    exact h.guarded (congrArg _ (h.ctxInitTests_eq ca p)) fun _ => ⟨rfl, h.setCtx ca (Context.same_initialised _ _)⟩
  | ctxAbsorb ca p =>
    exact h.guarded (h.firstFailing_ctxAbsorbTests ca p) fun _ => ⟨rfl, h.setCtx ca ((h.ctx ca).absorb p)⟩
  | ctxFinal ca p =>
    exact h.guarded (congrArg _ (h.ctxFinalTests_eq ca p)) fun hpass =>
      ⟨(h.ctx ca).finalDigest_eq (valid_of_ctxFinalTests hpass), h⟩
  | ctxClone ca cb p =>
    exact h.guarded (congrArg _ (h.ctxCloneTests_eq ca cb p)) fun _ => ⟨rfl, h.setCtx ca (h.ctx cb)⟩

theorem State.Same.execFrame {s t : State} (h : s.Same t) (f : Word × Bytes) :
    NextSame (execFrame f s) (execFrame f t) := by
  cases hd : decodeWord f.1 f.2 with
  | error e => exact ⟨_, _, execFrame_of_error hd s, execFrame_of_error hd t, h.emit _⟩
  | ok i => simpa only [execFrame_of_ok hd] using h.exec i

theorem State.Same.step {s t : State} (h : s.Same t) : NextSame (step s) (step t) := by
  rcases step_cases s with ⟨hp, hs⟩ | ⟨hp, hwait, hs⟩ | ⟨hp, f, rest, hf, hrx, hs⟩
  · exact ⟨_, _, hs, step_of_reset (h.resetPin ▸ hp), h.takeReset⟩
  · exact ⟨_, _, hs, step_of_waiting (h.resetPin ▸ hp) (h.rx ▸ hwait), h⟩
  · rw [hs, step_frame (h.resetPin ▸ hp) hf (h.rx ▸ hrx)]
    exact (h.setRx rest).execFrame f

theorem State.Same.runSteps {s t : State} (h : s.Same t) (k : Nat) : NextSame (runSteps k s) (runSteps k t) := by
  induction k generalizing s t with
  | zero => exact ⟨s, t, rfl, rfl, h⟩
  | succ k ih =>
    obtain ⟨s', t', hs, ht, h'⟩ := h.step
    rw [runSteps_succ_of_next hs, runSteps_succ_of_next ht]
    exact ih h'

/-- Settles O55, by induction on the number of steps. -/
theorem staleBytesAreUnobservable : Obligations.StaleBytesAreUnobservable := by
  intro k s t s' h hs
  obtain ⟨s₁, t', hs₁, ht, h'⟩ := h.runSteps k
  obtain rfl := Host.Outcome.next.inj (hs₁.symm.trans hs)
  exact ⟨t', ht, h', h'.observed_eq⟩

end Sys2Proof.Machine
end

section
/-! Runs (60_exceptions.md R630, R631): a queue of frames has one reading, a run without a reset executes the frames it
has been sent from the front, and it ends with the last of them. -/

namespace Sys2Proof.Machine

/-! ### A queue of frames has one reading (R300) -/

/-- Frames whose payload length fits PLEN. -/
def Sized (fs : List (Word × Bytes)) : Prop := ∀ f ∈ fs, f.2.length < 2 ^ 64

theorem Sized.append {fs gs : List (Word × Bytes)} (hf : Sized fs) (hg : Sized gs) : Sized (fs ++ gs) :=
  List.forall_mem_append.2 ⟨hf, hg⟩

theorem u32be_inj {x y : Word} (h : u32be x = u32be y) : x = y := by
  apply BitVec.eq_of_toNat_eq
  rw [← beNat_u32be, ← beNat_u32be, h]

/-- R300: where a frame ends is determined by its own bytes. -/
theorem frameBytes_append_inj {f g : Word × Bytes} {x y : Bytes} (hf : f.2.length < 2 ^ 64) (hg : g.2.length < 2 ^ 64)
    (h : frameBytes f ++ x = frameBytes g ++ y) : f = g ∧ x = y := by
  simp only [frameBytes, List.append_assoc] at h
  obtain ⟨hcmd, h⟩ := List.append_inj h (by simp)
  obtain ⟨hplen, h⟩ := List.append_inj h (by simp)
  have hlen : f.2.length = g.2.length := by rw [← beNat_u64be _ hf, hplen, beNat_u64be _ hg]
  obtain ⟨hp, hxy⟩ := List.append_inj h hlen
  exact ⟨Prod.ext (u32be_inj hcmd) hp, hxy⟩

theorem frameBytes_append_ne_nil (f : Word × Bytes) (x : Bytes) : frameBytes f ++ x ≠ [] := by
  intro h
  have hlen := congrArg List.length h
  simp [frameBytes] at hlen

/-- R300: of two readings of one byte sequence, each some frames and then other bytes, one goes on where the other
stops. -/
theorem frames_append_cases {fs gs : List (Word × Bytes)} {x y : Bytes} (hf : Sized fs) (hg : Sized gs)
    (h : fs.flatMap frameBytes ++ x = gs.flatMap frameBytes ++ y) :
    (∃ hs, gs = fs ++ hs ∧ x = hs.flatMap frameBytes ++ y) ∨
    (∃ hs, fs = gs ++ hs ∧ y = hs.flatMap frameBytes ++ x) := by
  induction fs generalizing gs with
  | nil => exact .inl ⟨gs, rfl, h⟩
  | cons f fs ih =>
    cases gs with
    | nil => exact .inr ⟨f :: fs, rfl, h.symm⟩
    | cons g gs =>
      simp only [List.flatMap_cons, List.append_assoc] at h
      obtain ⟨hf₁, hf₂⟩ := List.forall_mem_cons.1 hf
      obtain ⟨hg₁, hg₂⟩ := List.forall_mem_cons.1 hg
      obtain ⟨rfl, hrest⟩ := frameBytes_append_inj hf₁ hg₁ h
      obtain ⟨hs, rfl, hx⟩ | ⟨hs, rfl, hy⟩ := ih hf₂ hg₂ hrest
      · exact .inl ⟨hs, rfl, hx⟩
      · exact .inr ⟨hs, rfl, hy⟩

theorem eq_nil_of_flatMap_frameBytes_append_eq_nil {fs : List (Word × Bytes)} {x : Bytes}
    (h : fs.flatMap frameBytes ++ x = []) : fs = [] ∧ x = [] := by
  cases fs with
  | nil => exact ⟨rfl, h⟩
  | cons f fs =>
    rw [List.flatMap_cons, List.append_assoc] at h
    exact absurd h (frameBytes_append_ne_nil f _)

/-! ### The frames a run has executed (R210, R631) -/

theorem runFrames_append_of_next {fs : List (Word × Bytes)} {s t : State} (h : runFrames fs s = .next t)
    (gs : List (Word × Bytes)) : runFrames (fs ++ gs) s = runFrames gs t := by
  induction fs generalizing s with
  | nil =>
    obtain rfl := Host.Outcome.next.inj h
    rfl
  | cons f fs ih =>
    obtain ⟨cs, r, hexec⟩ := execFrame_reads_only_ctxs f s
    rw [List.cons_append, runFrames_cons_of_next (hexec s)]
    exact ih ((runFrames_cons_of_next (hexec s) fs).symm.trans h)

/-- R631: a run begun at `s` in which the bytes `sent` have been sent: the engine has executed the frames `fs` of them
and still has the rest, and `rs` are the responses, those the host has read and those that wait, after those that waited
when the run began. -/
structure Run.Executed (r : Run) (s : State) (sent : Bytes) (fs : List (Word × Bytes)) (rs : List Response) : Prop where
  sized : Sized fs
  noReset : r.machine.resetPin = false
  earlier : r.earlier = s.tx.length
  bytes : sent = fs.flatMap frameBytes ++ r.machine.rx
  fold : runFrames fs s = .next { s with ctxs := r.machine.ctxs, tx := s.tx ++ rs }
  count : rs.length = fs.length
  shown : r.seen ++ r.machine.tx = s.tx ++ rs

theorem Run.executed_start {s : State} (hrx : s.rx = []) (hp : s.resetPin = false) :
    (Run.start s).Executed s [] [] [] where
  sized := nofun
  noReset := hp
  earlier := rfl
  bytes := hrx.symm
  fold := by simp [runFrames]
  count := rfl
  shown := (List.append_nil _).symm

section
variable {r r' : Run} {s : State} {sent : Bytes} {fs : List (Word × Bytes)} {rs : List Response}
  (h : r.Executed s sent fs rs)
include h

theorem Run.Executed.send (bs : Bytes) :
    Run.Executed { r with machine := r.machine.hostSend bs } s (sent ++ bs) fs rs :=
  { h with bytes := by simp [h.bytes] }

/-- R630: a read moves a response from those that wait to those read. -/
theorem Run.Executed.read : r.read.Executed s sent fs rs := by
  rcases r.read_cases with ⟨-, hr⟩ | ⟨x, rest, htx, hr⟩
  · rwa [hr]
  · rw [hr]
    exact { h with shown := by simpa [htx] using h.shown }

/-- R210: a step with a complete frame in front executes it. -/
theorem Run.Executed.step_of_frame {f : Word × Bytes} {rest : Bytes} (hf : f.2.length < 2 ^ 64)
    (hrx : r.machine.rx = frameBytes f ++ rest) :
    ∃ u x, r.step = some u ∧ u.machine.rx = rest ∧ u.Executed s sent (fs ++ [f]) (rs ++ [x]) := by
  obtain ⟨cs, x, hexec⟩ := execFrame_reads_only_ctxs f r.machine
  have hstep := (step_frame h.noReset hf hrx).trans (hexec { r.machine with rx := rest })
  refine ⟨_, x, r.step_next _ h.noReset hstep, rfl, ?_⟩
  exact {
    sized := h.sized.append (by simpa [Sized] using hf)
    noReset := h.noReset
    earlier := h.earlier
    bytes := by simp [h.bytes, hrx]
    fold := by
      rw [runFrames_append_of_next h.fold, runFrames_cons_of_next (hexec { s with tx := s.tx ++ rs })]
      simp [runFrames]
    count := by simp [h.count]
    shown := by simp [← List.append_assoc, h.shown] }

/-- R300: a step without a complete frame changes nothing of a run. -/
theorem Run.Executed.step_of_waiting (hwait : decodeFrame r.machine.rx = .waiting) : r.step = some r :=
  r.step_next _ h.noReset (Machine.step_of_waiting h.noReset hwait)

theorem Run.Executed.step : ∃ u gs qs, r.step = some u ∧ u.Executed s sent gs qs := by
  obtain hwait | ⟨f, rest, hf, hrx⟩ := waiting_or_frame r.machine.rx
  · exact ⟨r, fs, rs, h.step_of_waiting hwait, h⟩
  · obtain ⟨u, x, hu, -, hexec⟩ := h.step_of_frame hf hrx
    exact ⟨u, _, _, hu, hexec⟩

theorem Run.Executed.event {e : Event} (he : e ≠ .reset) (hr : r.event e = some r') :
    ∃ gs qs, r'.Executed s (sent ++ sentBytes [e]) gs qs := by
  cases e with
  | send bs =>
    obtain rfl := Option.some.inj hr
    exact ⟨fs, rs, by simpa [sentBytes] using h.send bs⟩
  | read =>
    obtain rfl := Option.some.inj hr
    exact ⟨fs, rs, by simpa [sentBytes] using h.read⟩
  | reset => exact absurd rfl he
  | step =>
    obtain ⟨u, gs, qs, hu, hexec⟩ := h.step
    obtain rfl := Option.some.inj (hu.symm.trans hr)
    exact ⟨gs, qs, by simpa [sentBytes] using hexec⟩

end

/-- R631: whatever happens without a reset, the frames executed are in front of the bytes sent. -/
theorem Run.Executed.after {r r' : Run} {s : State} {sent : Bytes} {fs : List (Word × Bytes)} {rs : List Response}
    (h : r.Executed s sent fs rs) {es : List Event} (hes : Event.reset ∉ es) (hr : r.after es = some r') :
    ∃ gs qs, r'.Executed s (sent ++ sentBytes es) gs qs := by
  induction es generalizing r sent fs rs with
  | nil =>
    obtain rfl := Option.some.inj hr
    exact ⟨fs, rs, by simpa [sentBytes] using h⟩
  | cons e es ih =>
    obtain ⟨he, hes⟩ := List.ne_and_not_mem_of_not_mem_cons hes
    rw [Run.after_cons] at hr
    obtain ⟨q, hq, hr⟩ := Option.bind_eq_some_iff.1 hr
    obtain ⟨gs, qs, hexec⟩ := h.event (Ne.symm he) hq
    rw [sentBytes_cons, ← List.append_assoc]
    exact ih hexec hes hr

theorem Run.ended_iff (r : Run) : r.ended = true ↔ r.machine.rx = [] ∧ r.machine.resetPin = false := by
  simp [Run.ended]

theorem Run.observation_of_ended {r : Run} (h : r.ended = true) :
    r.observation = some ⟨r.responses.map Response.frame, r.machine.ctxs⟩ := if_pos h

theorem Run.observation_of_not_ended {r : Run} (h : r.ended = false) : r.observation = none := by
  simp [Run.observation, h]

/-- R631: the responses of a run are those to the frames executed. -/
theorem Run.Executed.responses_eq {r : Run} {s : State} {sent : Bytes} {fs : List (Word × Bytes)} {rs : List Response}
    (h : r.Executed s sent fs rs) : r.responses = rs := by
  rw [Run.responses, h.shown, h.earlier, List.drop_left]

/-- R300, R631: where whole frames have been sent, those that the run has not executed wait. -/
theorem Run.Executed.frames_left {r : Run} {s : State} {fs gs : List (Word × Bytes)} {rs : List Response}
    (h : r.Executed s (fs.flatMap frameBytes) gs rs) (hfs : Sized fs) :
    ∃ hs, fs = gs ++ hs ∧ r.machine.rx = hs.flatMap frameBytes := by
  have hbytes := h.bytes.symm.trans (List.append_nil _).symm
  obtain ⟨hs, hgs, hrx⟩ | ⟨hs, rfl, hnil⟩ := frames_append_cases h.sized hfs hbytes
  · exact ⟨hs, hgs, by simpa using hrx⟩
  · obtain ⟨rfl, hrx⟩ := eq_nil_of_flatMap_frameBytes_append_eq_nil hnil.symm
    exact ⟨[], by simp, hrx⟩

/-- Settles O58: at the end no frame waits, so that the frames executed are all that were sent. -/
theorem runObservationIsTheFold : Obligations.RunObservationIsTheFold := by
  intro s fs es r hrx hp hfs hes hsent hr hended
  obtain ⟨gs, rs, h⟩ := (Run.executed_start hrx hp).after hes hr
  rw [List.nil_append, hsent] at h
  obtain ⟨hs, rfl, hleft⟩ := h.frames_left hfs
  obtain ⟨hempty, -⟩ := r.ended_iff.1 hended
  obtain ⟨rfl, -⟩ := eq_nil_of_flatMap_frameBytes_append_eq_nil ((List.append_nil _).trans (hleft.symm.trans hempty))
  rw [List.append_nil]
  refine ⟨_, rs, h.fold, rfl, h.count, ?_⟩
  rw [Run.observation_of_ended hended, h.responses_eq]

/-! ### The end of a run -/

/-- R210: as many steps as frames wait execute them all; further steps change nothing. -/
theorem Run.Executed.after_steps {r : Run} {s : State} {sent : Bytes} {fs : List (Word × Bytes)} {rs : List Response}
    (h : r.Executed s sent fs rs) {gs : List (Word × Bytes)} (hgs : Sized gs)
    (hrx : r.machine.rx = gs.flatMap frameBytes) {k : Nat} (hk : gs.length ≤ k) :
    ∃ u, r.after (List.replicate k .step) = some u ∧ u.ended = true := by
  induction k generalizing r fs rs gs with
  | zero =>
    obtain rfl := List.eq_nil_of_length_eq_zero (Nat.le_zero.1 hk)
    exact ⟨r, rfl, r.ended_iff.2 ⟨hrx, h.noReset⟩⟩
  | succ k ih =>
    rw [List.replicate_succ, Run.after_cons]
    cases gs with
    | nil =>
      have hstep := h.step_of_waiting (by rw [hrx]; exact decodeFrame_nil)
      rw [Run.event, hstep]
      exact ih h hgs hrx (Nat.zero_le k)
    | cons g gs =>
      obtain ⟨hg, hgs⟩ := List.forall_mem_cons.1 hgs
      obtain ⟨u, x, hstep, hu, hexec⟩ := h.step_of_frame hg hrx
      rw [Run.event, hstep]
      exact ih hexec hgs hu (Nat.le_of_succ_le_succ hk)

/-- R300, R631: while the last bytes sent are an incomplete frame, the run has not ended. -/
theorem Run.Executed.not_ended {r : Run} {s : State} {fs gs : List (Word × Bytes)} {q : Bytes} {rs : List Response}
    (h : r.Executed s (fs.flatMap frameBytes ++ q) gs rs) (hfs : Sized fs) (hq : q ≠ [])
    (hwait : decodeFrame q = .waiting) : r.ended = false := by
  refine Bool.eq_false_iff.2 fun hended => ?_
  obtain ⟨hempty, -⟩ := r.ended_iff.1 hended
  have hbytes := h.bytes
  rw [hempty] at hbytes
  obtain ⟨hs, -, hnil⟩ | ⟨hs, rfl, hrest⟩ := frames_append_cases h.sized hfs hbytes.symm
  · obtain ⟨-, hnil⟩ := eq_nil_of_flatMap_frameBytes_append_eq_nil hnil.symm
    exact hq hnil
  · cases hs with
    | nil => exact hq hrest
    | cons f hs =>
      have hsized := h.sized f (by simp)
      rw [hrest, List.flatMap_cons, List.append_assoc] at hwait
      exact decodeFrame_frameBytes_ne_waiting hsized _ hwait

/-- Settles O59: the frames that wait are at most all that were sent. -/
theorem runsEnd : Obligations.RunsEnd := by
  intro s fs q es r hrx hp hfs hes hsent hr
  obtain ⟨gs, rs, h⟩ := (Run.executed_start hrx hp).after hes hr
  rw [List.nil_append, hsent] at h
  refine ⟨?_, fun hq hwait => ?_⟩
  · rintro rfl
    rw [List.append_nil] at h
    obtain ⟨hs, rfl, hleft⟩ := h.frames_left hfs
    exact h.after_steps (List.forall_mem_append.1 hfs).2 hleft (by simp)
  · have hended := h.not_ended hfs hq hwait
    exact ⟨hended, Run.observation_of_not_ended hended⟩

end Sys2Proof.Machine
end

section
/-! The constant tables from their definitions (10_state.md R110; 43_compression.md R461). -/

namespace Sys2Proof.Machine

/-- The first 64 primes: trial division, which the kernel alone evaluates within its bounds. -/
theorem primesUpTo_312 : primesUpTo 312 =
    [2, 3, 5, 7, 11, 13, 17, 19, 23, 29, 31, 37, 41, 43, 47, 53, 59, 61, 67, 71, 73, 79, 83, 89, 97, 101, 103, 107, 109,
     113, 127, 131, 137, 139, 149, 151, 157, 163, 167, 173, 179, 181, 191, 193, 197, 199, 211, 223, 227, 229, 233, 239,
     241, 251, 257, 263, 269, 271, 277, 281, 283, 293, 307, 311] := by
  decide +kernel

/-- Settles O26: the primes once, and then each root by its digits. -/
theorem constantTables : Obligations.ConstantTables := by
  refine ⟨length_K, ?_, ?_⟩
  · decide
  · rw [primesUpTo_312]
    decide

end Sys2Proof.Machine
end

section
/-! The assembler (30_encoding.md R320, R321): a number that fits its operand is read as it is. -/

namespace Sys2Proof.Machine

@[simp] theorem word32?_toNat (x : Word) : word32? x.toNat = some x := by
  simp [word32?, x.isLt]

/-- R320: words are the terms of ADD32. -/
@[simp] theorem addTerms?_nums (ts : List Word) : addTerms? (ts.map fun u => .num u.toNat) = some ts := by
  induction ts with
  | nil => rfl
  | cons t ts ih => simp [addTerms?, ih]

theorem assemble_add32 (t : Word) (ts : List Word) : assemble .add32 ((t :: ts).map fun u => .num u.toNat) =
    some [.add32 ((t :: ts).flatMap u32be)] := by
  have hterms := addTerms?_nums (t :: ts)
  rw [List.map_cons] at hterms ⊢
  rw [assemble, hterms]
  rfl

theorem assemble_rotr32 (x n : Word) :
    assemble .rotr32 [.num x.toNat, .num n.toNat] = some [.rotr32 (u32be x ++ u32be n)] := by
  simp [assemble]

theorem assemble_step (S : Chain) (k w : Word) : assemble .step [.state S, .num k.toNat, .num w.toNat] =
    some [.step (S.words.flatMap u32be ++ u32be k ++ u32be w)] := by
  simp [assemble, stateBytes]

theorem assemble_pad (L : DWord) : assemble .pad [.num L.toNat] = some [.pad (u64be L.toNat)] :=
  if_pos L.isLt

theorem assemble_extend (G D : Bytes) (L : DWord) :
    assemble .extend [.bytes G, .num L.toNat, .bytes D] = some [.extend (G ++ u64be L.toNat ++ D)] :=
  if_pos L.isLt

/-- Settles O56: the lines with numbers are lemmas, and the others are rows of the definition. -/
theorem assemblerLines : Obligations.AssemblerLines :=
  fun t ts x n k w S _ D G _ L _ _ => ⟨assemble_add32 t ts, assemble_rotr32 x n, rfl, assemble_step S k w, rfl,
    assemble_pad L, rfl, rfl, rfl, rfl, rfl, rfl, rfl, assemble_extend G D L, rfl⟩

/-- Settles O57: both are rows of the definition. -/
theorem assemblerExpandsPseudo : Obligations.AssemblerExpandsPseudo := fun _ _ _ => ⟨rfl, rfl⟩

end Sys2Proof.Machine
end
